-- ==== Sys2Proof/Word.lean ====
section
/-! DEFINITION. The base types of 00_scope.md rule R7: unsigned integers of fixed width are bit vectors
(arithmetic modulo 2^N), lengths, positions and bit counts are unbounded naturals, `bytes` and `text` are lists of
bytes, `f64` is the 64 bits of an IEEE 754 binary64 value. -/

namespace Sys2Proof

/-- `u8` (R7). -/
abbrev Byte := BitVec 8

/-- `bytes`: a finite sequence of u8 (R7). A payload is one. -/
abbrev Bytes := List Byte

/-- `text`: a finite sequence of u8, carried uninterpreted (R7, decision D39). -/
abbrev Text := List Byte

/-- `f64`: the bit pattern of a binary64 value (R7, R127); its arithmetic is Machine/Float.lean. -/
abbrev F64 := BitVec 64

/-- A Parameter Group Number, `u32` (R7). -/
abbrev Pgn := BitVec 32

end Sys2Proof
end

