-- ==== Sys2Proof/Types.lean ====
section
/-! DEFINITION. The composite data types of 00_scope.md rule R7 (the source's Frame/Message Model), the failures
of 60_exceptions.md rule R171 and the form in which a request reaches PCD. Plain data, no behaviour. -/

namespace Sys2Proof

/-- `Message` (R7). Its ranges (priority 0..7, source 0..251, payload at most 223 bytes, cursor within the
payload) are checked by `Machine.messageOk`; a request that breaks one is refused (R8). -/
structure Message where
  pgn : Pgn
  priority : Byte
  source : Byte
  destination : Byte
  payload : Bytes
  cursor : Nat
deriving DecidableEq, Repr, Inhabited

/-- `Frame` = (id, payload) (R7, decisions D34 and D40). -/
structure Frame where
  id : BitVec 32
  payload : Bytes
deriving DecidableEq, Repr, Inhabited

/-- `SignalDef` (R7, R59). `minVal` and `maxVal` are the source's min and max. `enumTable` lists the finite
partial map int to text; its keys are unique (D38), which `Machine.signalDefOk` checks with bit_length 1..64. -/
structure SignalDef where
  name : Text
  startBit : BitVec 32
  bitLength : Nat
  isSigned : Bool
  scale : F64
  offset : F64
  minVal : F64
  maxVal : F64
  unit : Text
  enumTable : Option (List (Int × Text))
deriving DecidableEq, Repr, Inhabited

/-- The value of a decoded signal (R7). -/
inductive SignalValue where
  | numeric (x : F64)
  | enumerated (t : Text)
  | notAvailable
deriving DecidableEq, Repr, Inhabited

/-- `DecodedSignal` (R7). -/
structure DecodedSignal where
  name : Text
  unit : Text
  value : SignalValue
  valid : Bool
deriving DecidableEq, Repr, Inhabited

/-- `DecodedMessage` (R7). -/
structure DecodedMessage where
  name : Text
  description : Text
  signals : List DecodedSignal
  decoded : Bool
deriving DecidableEq, Repr, Inhabited

/-- `Schema`: one schema-driven entry of the decoder table (R7, decision D24). -/
structure Schema where
  name : Text
  description : Text
  minLen : Nat
  signals : List SignalDef
deriving DecidableEq, Repr, Inhabited

/-- `InstanceConflict` (R7, 10_state.md R12). `sources` lists the finite set conflicting_sources, ascending (D29). -/
structure InstanceConflict where
  pgn : Pgn
  inst : Byte
  sources : List Byte
deriving DecidableEq, Repr, Inhabited

/-- The fields of one proprietary message, tagged by its type (42_parsers.md R106). -/
inductive PropMessage where
  | simpleAction (action switch : Byte)
  | stateInfo (switch state type : Byte)
  | customHsb (action switch hue sat bright : Byte)
  | startPattern (switch pattern : Byte)
  | outputChannelPwm (channel duty : Byte) (transitionTime : BitVec 16)
deriving DecidableEq, Repr, Inhabited

/-- The five proprietary message types that have a layout (30_encoding.md R54, R60). -/
inductive PropTag where
  | simpleAction
  | stateInfo
  | customHsb
  | startPattern
  | outputChannelPwm
deriving DecidableEq, Repr, Inhabited

/-- The status of a response (60_exceptions.md R171). -/
inductive Status where
  | ok
  | malformed
  | identityMismatch
  | unsupported
  | signalFail
deriving DecidableEq, Repr, Inhabited

/-- The failures a response can report, one constructor per sub-cause of 60_exceptions.md R171. -/
inductive Failure where
  /-- Malformed: payload shorter than 3 bytes, or than the 7 bytes GF_PARSE_ACK needs. -/
  | shortPayload
  /-- Malformed: payload shorter than the minimum of its tag, or than the schema's min_len. -/
  | shortForType
  /-- Malformed: a cursor read or write would pass the end of the payload. -/
  | pastEnd
  /-- Malformed: GF_BUILD_CMD given more than 255 pairs. -/
  | tooManyPairs
  /-- Malformed: GF_BUILD_CMD given a pair whose value has no byte. -/
  | emptyValue
  /-- Malformed: GF_BUILD_CMD result would exceed 223 bytes. -/
  | tooLong
  /-- Malformed: acknowledge whose parameter count is 0. -/
  | noParameters
  /-- IdentityMismatch: bytes 0 and 1 do not unpack to (1512, 4). -/
  | wrongHeader
  /-- IdentityMismatch: byte 2 is not the tag the parser expects. -/
  | wrongTag
  /-- IdentityMismatch: byte 0 of an acknowledge is not 2. -/
  | wrongFunctionCode
  /-- IdentityMismatch: bytes 1 to 3 of an acknowledge differ from the expected PGN. -/
  | wrongTargetPgn
  /-- Unsupported: valid proprietary payload whose tag has no layout; the tag is recorded. -/
  | unknownTag (t : Byte)
  /-- Unsupported: no decoder for the PGN, or the PGN is ignored. -/
  | noDecoder
  /-- SignalFail: start_bit + bit_length exceeds the payload's bits. -/
  | bitRangeExceedsPayload
deriving DecidableEq, Repr, Inhabited

/-- Where a request stands: the number space its bytes are read in. The rows of spec/opcode_table.json belong to
six formats, each matched over its own number (30_encoding.md R65), so the format travels beside the bytes.
DESIGN CHOICE, log entry 4. The group-function port carries the PGN the host expects an acknowledge for (R112). -/
inductive Port where
  /-- format OP: an operation select byte and its operands (R63). -/
  | op
  /-- format PROP: a proprietary payload (R53 to R55). -/
  | prop
  /-- formats GFC and GFA: a group-function payload (R56, R57). -/
  | groupFunction (expectedPgn : Pgn)
  /-- format HDR: the two header bytes (R52). -/
  | header
  /-- format ID: the four bytes of a bus identifier's container (R51). -/
  | busId
deriving DecidableEq, Repr, Inhabited

/-- One request as the host issues it: a port and bytes (00_scope.md R3; log entries 1, 3 and 4). -/
structure Request where
  port : Port
  bytes : Bytes
deriving DecidableEq, Repr, Inhabited

/-- Why a request's bytes are no instruction. -/
inductive Reject where
  /-- An op code that is not in the map: "is not an operation: refuse" (30_encoding.md R63). -/
  | unknownOp (op : Byte)
  /-- The bytes end before the last operand does: not a request (R63). -/
  | truncated
  /-- A byte that must be 0 or 1 (a bool, the presence of a table) is neither (log entry 3). -/
  | badFlag (b : Byte)
  /-- Bits 31:29 of an identifier's container are not 0 (R51). -/
  | badId
  /-- A payload longer than 223 bytes (00_scope.md R8). -/
  | tooLongPayload
  /-- A wire message no row matches: PCD answers with this failure and goes on (R61; log entries 5 and 6). -/
  | noMatch (f : Failure)
deriving DecidableEq, Repr, Inhabited

end Sys2Proof
end

