-- ==== Sys2Proof/Config.lean ====
section
/-! DEFINITION. The configuration record CFG (10_state.md rule R18): a field for every parameter of 00_scope.md rule
R6, and the free values. CFG is a parameter of the step relation and no state. What the spec leaves OPEN stands in
`OpenConfig`, of which the machine's own is an opaque constant, so a theorem about the machine holds for every choice;
what the spec decides (PARSE_MIN_LEN, F64, INDEX_NAME) are fields too, which the machine's configuration
(`Config.current`, Machine/Operands.lean) holds at the decided values. T is a type: `OpenConfig.T` makes it of a field. The constraint of each parameter is built into
its type or into the accessor of Machine/Operands.lean that reads it. Log entries 7, 8, 13, 14 and 16. -/

namespace Sys2Proof

/-- An entry of the decoder table DEC (R7): schema-driven, or a specialised decoder, a pure function of the payload
(44_signal_decode.md R133). -/
inductive Decoder where
  | generic (schema : Schema)
  | special (f : Bytes → DecodedMessage)
deriving Inhabited

/-- The floating-point operations whose NaN result the spec leaves open. -/
inductive FloatOp where
  | add
  | sub
  | mul
deriving DecidableEq, Repr, Inhabited

/-- Which NaN an operation returns for its operands (93_implementation_defined.md I20). -/
abbrev NanChoice := FloatOp → F64 → F64 → F64

/-- F64: the numerics record (R6, D18). -/
structure Numerics where
  ofInt : Int → F64
  mul : F64 → F64 → F64
  add : F64 → F64 → F64
  sub : F64 → F64 → F64
  lt : F64 → F64 → Bool
  le : F64 → F64 → Bool

/-- The parameters of R6 that are OPEN, and the free values. -/
structure OpenConfig where
  /-- PROP_PGN (D3). -/
  propPgn : Pgn
  /-- PROP_PRIORITY, 0..7 (D4). -/
  propPriority : BitVec 3
  /-- GF_PGN (D12): the PGN a host puts a group-function payload in; no operation reads it (R110). -/
  gfPgn : Pgn
  /-- GF_FUNC_COMMAND (D12) is any u8 but 2: the index of the value among those 255 (`Config.gfFuncCommand`). -/
  gfFuncIndex : Fin 255
  /-- GF_ACK_SUCCESS (D14). -/
  gfAckSuccess : Byte → Bool
  /-- DEC (D24), as a list of entries; the first well-formed entry of a PGN counts (`Config.decoder`). -/
  decTable : List (Pgn × Decoder)
  /-- IGNORE_PGNS (D24). -/
  ignorePgns : List Pgn
  /-- TEMP_FIX (D19): none, or the threshold and the test of the unit text. -/
  tempFix : Option (F64 × (Text → Bool))
  /-- RANGE_CHECK (D20). -/
  rangeCheck : Bool
  /-- STR_MAX (D26) is 1..255: one less than it (`Config.strMax`). -/
  strMaxPred : Fin 255
  /-- INSTANCE_PGNS (D28) beside its required entry 127508 ↦ 0; true stands for offset 1 (`Config.instanceOffset`). -/
  instancePgnsMore : List (Pgn × Bool)
  /-- T (D28), the type of `last_seen`, as a set of naturals (`OpenConfig.T`): the values of T beside its value 0
  (log entry 13). -/
  timestampMore : Nat → Bool
  /-- Which NaN an operation returns (I20): a free value for the operation and its operands (log entry 8). -/
  nanChoice : NanChoice
  /-- What a parser reads at an index beyond its payload: a free value, reached only under a PARSE_MIN_LEN below the
  decided one (log entry 16). -/
  absentByte : Bytes → Nat → Byte
deriving Inhabited

/-- CFG (R18): the open parameters and the three the spec decides. -/
structure Config extends OpenConfig where
  /-- PARSE_MIN_LEN: tag to 0..223 (D7). -/
  parseMinLen : PropTag → Fin 224
  /-- F64 (D18). -/
  f64 : Numerics
  /-- INDEX_NAME (D27). -/
  indexName : Text → Nat → Text

/-- The open values of this machine, fixed from one reset to the next (70_reset_and_hazards.md R188). The constant has no
body: nothing can be proved of it but what its type says. -/
opaque Config.openValues : OpenConfig

/-- The value of T that a natural names: itself where it is a value of T, else the value 0 (log entry 13). -/
def OpenConfig.timestampCode (o : OpenConfig) (n : Nat) : Nat :=
  if n ≠ 0 ∧ o.timestampMore n = true then n else 0

/-- CFG.T: the naturals that name themselves. PCD has no operation on it (R6, D28). -/
abbrev OpenConfig.T (o : OpenConfig) : Type :=
  { t : Nat // o.timestampCode t = t }

/-- The type T of this machine's configuration. -/
abbrev Timestamp : Type := Config.openValues.T

end Sys2Proof
end

