-- ==== Sys2Proof/Machine/Float.lean ====
section
/-! DEFINITION. Binary64 arithmetic (F64), as 44_signal_decode.md rule R127 and decision D18 fix it: IEEE 754, round to
nearest, ties to even, every operation correctly rounded, no exception flags kept. A finite binary64 value is an integer
number of units of 2^-1074, so every sum and product is computed exactly on integers and rounded once. Which NaN an
operation returns is a free value (93_implementation_defined.md I20, log entry 8). -/

namespace Sys2Proof.Machine.Binary64

/-- The biased exponent field. -/
def expField (x : F64) : Nat :=
  (x.extractLsb' 52 11).toNat

/-- The fraction field. -/
def fraction (x : F64) : Nat :=
  (x.extractLsb' 0 52).toNat

def isNaN (x : F64) : Bool :=
  expField x == 2047 && fraction x != 0

def isInf (x : F64) : Bool :=
  expField x == 2047 && fraction x == 0

/-- The magnitude of a finite value in units of 2^-1074. -/
def magnitude (x : F64) : Nat :=
  if expField x = 0 then fraction x
  else (2 ^ 52 + fraction x) * 2 ^ (expField x - 1)

/-- The value of a finite pattern in units of 2^-1074. An infinity reads as the magnitude that the exponent range would
continue with, which is above every finite one, so that comparisons may use the same number. -/
def units (x : F64) : Int :=
  if x.msb then -(magnitude x : Int) else (magnitude x : Int)

/-- The pattern with this sign and these low 63 bits. -/
def withSign (neg : Bool) (bits : Nat) : F64 :=
  BitVec.ofNat 64 (if neg then 2 ^ 63 + bits else bits)

/-- The infinity of this sign. -/
def infinity (neg : Bool) : F64 :=
  withSign neg (2047 * 2 ^ 52)

/-- `n / 2^d` rounded to an integer, to nearest, ties to even. -/
def roundShift (n d : Nat) : Nat :=
  let q := n / 2 ^ d
  let r := n % 2 ^ d
  if 2 * r > 2 ^ d then q + 1
  else if 2 * r = 2 ^ d then q + q % 2
  else q

/-- The binary64 value nearest to ±n · 2^-(1074 + q). The low `d` bits of n are rounded away: as many as leave a 53-bit
significand, and at least the `q` that are below the smallest unit. The significand and the exponent add up to the
pattern, a carry into the exponent included; a pattern at or beyond the infinity's is the infinity. -/
def round (neg : Bool) (n q : Nat) : F64 :=
  let d := max q (n.log2 - 52)
  let bits := (d - q) * 2 ^ 52 + roundShift n d
  if 2047 * 2 ^ 52 ≤ bits then infinity neg else withSign neg bits

/-- The NaN an operation returns: the given choice for the operation and its operands, whichever NaN it is. -/
def nan (choice : NanChoice) (op : FloatOp) (x y : F64) : F64 :=
  let c := choice op x y
  if isNaN c then c else 0x7FF8000000000000#64

/-- of_int: the binary64 value nearest to an integer. -/
def ofInt (v : Int) : F64 :=
  round (decide (v < 0)) (v.natAbs * 2 ^ 1074) 0

/-- The sum of two values that are no NaN; `none` where IEEE 754 has no sum (infinities of opposite signs). An exact
zero is +0 unless both operands are negative. -/
def addValue (x y : F64) : Option F64 :=
  if isInf x then
    if isInf y && (x.msb != y.msb) then none else some x
  else if isInf y then some y
  else
    let t := units x + units y
    if t = 0 then some (withSign (x.msb && y.msb) 0)
    else some (round (decide (t < 0)) t.natAbs 0)

/-- The product of two values that are no NaN; `none` for an infinity times a zero. -/
def mulValue (x y : F64) : Option F64 :=
  let neg := x.msb != y.msb
  if isInf x || isInf y then
    if magnitude x = 0 || magnitude y = 0 then none else some (infinity neg)
  else some (round neg (magnitude x * magnitude y) 1074)

/-- The value with the other sign. -/
def negate (x : F64) : F64 :=
  x ^^^ 0x8000000000000000#64

/-- add. -/
def add (choice : NanChoice) (x y : F64) : F64 :=
  if isNaN x || isNaN y then nan choice .add x y
  else (addValue x y).getD (nan choice .add x y)

/-- sub: x + (-y). -/
def sub (choice : NanChoice) (x y : F64) : F64 :=
  if isNaN x || isNaN y then nan choice .sub x y
  else (addValue x (negate y)).getD (nan choice .sub x y)

/-- mul. -/
def mul (choice : NanChoice) (x y : F64) : F64 :=
  if isNaN x || isNaN y then nan choice .mul x y
  else (mulValue x y).getD (nan choice .mul x y)

/-- lt: false when either is a NaN. -/
def lt (x y : F64) : Bool :=
  !isNaN x && !isNaN y && decide (units x < units y)

/-- le: false when either is a NaN. -/
def le (x y : F64) : Bool :=
  !isNaN x && !isNaN y && decide (units x ≤ units y)

/-- The record F64 of binary64 arithmetic (D18). -/
def numerics (choice : NanChoice) : Numerics :=
  { ofInt := ofInt, mul := mul choice, add := add choice, sub := sub choice, lt := lt, le := le }

/-- The binary64 value nearest to 0.01 (R128). -/
def oneHundredth : F64 := 0x3F847AE147AE147B#64

/-- The binary64 value nearest to 273.15 (R128; the number is from general knowledge, G5; log entry 15). -/
def kelvinOffset : F64 := 0x4071126666666666#64

end Sys2Proof.Machine.Binary64
end

