-- ==== Sys2Proof/Machine/Operands.lean ====
section
/-! DEFINITION. The operands: what their declared types admit (00_scope.md rules R5, R7, R8) and the readings of the
configuration with the constraints of R6. A request whose operands break a range is outside the contract and is
refused (R8, decision D11). -/

namespace Sys2Proof.Machine

/-- PAYLOAD_MAX (R5). -/
def payloadMax : Nat := 223

/-- SOURCE_MAX (R5). -/
def sourceMax : Nat := 251

/-- PRIORITY_MAX (R5). -/
def priorityMax : Nat := 7

/-- BROADCAST (R5). -/
def broadcast : Byte := 255

/-- 0 ≤ len(payload) ≤ 223 (R7, R30). -/
def payloadOk (p : Bytes) : Bool :=
  decide (p.length ≤ payloadMax)

/-- bit_length: 1..64 (R5, R7). -/
def bitLengthOk (n : Nat) : Bool :=
  decide (1 ≤ n) && decide (n ≤ 64)

/-- priority: 0..7 (R5, R7). -/
def priorityOk (b : Byte) : Bool :=
  decide (b.toNat ≤ priorityMax)

/-- No key occurs twice (D38). -/
def keysUnique : List (Int × Text) → Bool
  | [] => true
  | e :: es => es.all (fun f => decide (f.1 ≠ e.1)) && keysUnique es

/-- enum_table is a finite partial map, or absent (R7, D38). -/
def enumTableOk : Option (List (Int × Text)) → Bool
  | none => true
  | some t => keysUnique t

/-- The type constraints of a SignalDef (R7, R187). -/
def signalDefOk (sd : SignalDef) : Bool :=
  bitLengthOk sd.bitLength && enumTableOk sd.enumTable

/-- The cursor is within the payload: "cursor never exceeds payload length" (R7, R14). -/
def cursorOk (p : Bytes) (cur : Nat) : Bool :=
  payloadOk p && decide (cur ≤ p.length)

/-- The ranges of a Message (R7). -/
def messageOk (m : Message) : Bool :=
  priorityOk m.priority && decide (m.source.toNat ≤ sourceMax) && cursorOk m.payload m.cursor

/-- lo: 0..7, width: 1..8 with lo + width ≤ 8 (45_cursor_primitives.md R144). -/
def splitOk (lo width : Nat) : Bool :=
  decide (1 ≤ width) && decide (lo + width ≤ 8)

/-- The operands of READ_REPEATED: rec_size ≥ 1, every field a SignalDef (45_cursor_primitives.md R145). -/
def repeatedOk (p : Bytes) (cur recSize : Nat) (fields : List SignalDef) : Bool :=
  cursorOk p cur && decide (1 ≤ recSize) && fields.all signalDefOk

/-- The length of a group-function command payload (30_encoding.md R56) is a payload's. -/
def pairBytesOk (pairBytes : Bytes) : Bool :=
  decide (6 + pairBytes.length ≤ payloadMax)

/-- Every SignalDef of a schema-driven entry meets its type; a specialised decoder is any function (R187, R133). -/
def decoderOk : Decoder → Bool
  | .generic sch => sch.signals.all signalDefOk
  | .special _ => true

/-- PARSE_MIN_LEN as the spec decides it (D7). -/
def decidedMinLen : PropTag → Fin 224
  | .simpleAction => 6
  | .stateInfo => 7
  | .customHsb => 8
  | .startPattern => 6
  | .outputChannelPwm => 7

/-- The decimal digits of n as text; `fuel` bounds their number. -/
def decimalFuel : Nat → Nat → Text → Text
  | 0, n, acc => BitVec.ofNat 8 (48 + n % 10) :: acc
  | fuel + 1, n, acc =>
    let acc := BitVec.ofNat 8 (48 + n % 10) :: acc
    if n < 10 then acc else decimalFuel fuel (n / 10) acc

/-- The decimal digits of n as text. -/
def decimal (n : Nat) : Text :=
  decimalFuel n.log2 n []

/-- INDEX_NAME as the spec decides it: base ++ "_" ++ decimal(i + 1) (D27). -/
def suffixedName (base : Text) (i : Nat) : Text :=
  base ++ 0x5F#8 :: decimal (i + 1)

end Sys2Proof.Machine

namespace Sys2Proof

open Machine

/-- The configuration with these open values and the decided ones of R6. -/
def Config.ofOpen (o : OpenConfig) : Config :=
  { toOpenConfig := o, parseMinLen := decidedMinLen, f64 := Binary64.numerics o.nanChoice, indexName := suffixedName }

/-- The configuration of this machine (R187: PARSE_MIN_LEN has the five decided values; log entry 14). -/
def Config.current : Config :=
  Config.ofOpen Config.openValues

/-- The value of CFG.T a natural names; every natural names one (D28, log entry 13). -/
def OpenConfig.timestamp (o : OpenConfig) (n : Nat) : o.T :=
  ⟨o.timestampCode n, by unfold OpenConfig.timestampCode; split <;> simp_all⟩

/-- CFG.PROP_PRIORITY as a u8 operand of MAKE_ID: at most 7 (R6). -/
def Config.propPriorityByte (cfg : Config) : Byte :=
  cfg.propPriority.setWidth 8

/-- CFG.GF_FUNC_COMMAND: any u8 but 2 (R6, D12). -/
def Config.gfFuncCommand (cfg : Config) : Byte :=
  if cfg.gfFuncIndex.val < 2 then BitVec.ofNat 8 cfg.gfFuncIndex.val
  else BitVec.ofNat 8 (cfg.gfFuncIndex.val + 1)

/-- CFG.STR_MAX: 1..255 (R6, D26). -/
def Config.strMax (cfg : Config) : Nat :=
  cfg.strMaxPred.val + 1

/-- CFG.DEC as a partial map (R6, D24): the first entry of the PGN whose SignalDefs meet their types (R187). -/
def Config.decoder (cfg : Config) (pgn : Pgn) : Option Decoder :=
  (cfg.decTable.find? (fun e => e.1 == pgn && decoderOk e.2)).map (fun e => e.2)

/-- CFG.INSTANCE_PGNS as a partial map to the instance's byte offset, 0 or 1; 127508 ↦ 0 always
(46_instance_conflict.md R162). -/
def Config.instanceOffset (cfg : Config) (pgn : Pgn) : Option Nat :=
  if pgn = 127508 then some 0
  else (cfg.instancePgnsMore.find? (fun e => e.1 == pgn)).map (fun e => if e.2 then 1 else 0)

end Sys2Proof
end

