-- ==== Sys2Proof/Machine/State.lean ====
section
/-! DEFINITION. The state of PCD, its responses, and the reasons a step can stop. The spec's state is the pair
(REC, CONF) (10_state.md rules R10 to R12); `pending` and `response` are the model's own, the host interface of
00_scope.md rule R3 (log entry 1). -/

namespace Sys2Proof

/-- `InstanceRecord` (R7, 10_state.md R11): one binding of REC. `inst` is the source's instance. -/
structure InstanceRecord where
  pgn : Pgn
  source : Byte
  inst : Byte
  lastSeen : Timestamp
deriving DecidableEq, Repr

end Sys2Proof

namespace Sys2Proof.Machine

/-- The results of a response, one constructor per shape of result (30_encoding.md R63). -/
inductive Result where
  /-- PACK_HDR: byte0, byte1. -/
  | headerBytes (byte0 byte1 : Byte)
  /-- UNPACK_HDR: manufacturer, industry. -/
  | headerFields (manufacturer : BitVec 16) (industry : Byte)
  /-- MAKE_ID: the identifier. -/
  | id (id : BitVec 32)
  /-- IS_VALID. -/
  | valid (b : Bool)
  /-- GET_PROP_ID: the tag. -/
  | tag (t : Byte)
  /-- CREATE_x: the frame. -/
  | frame (f : Frame)
  /-- PARSE_x: the fields of the message, tagged by its type. -/
  | parsed (m : PropMessage)
  /-- GF_BUILD_CMD: the payload. -/
  | payload (p : Bytes)
  /-- GF_PARSE_ACK: entry_1 and success. -/
  | ack (entry1 : Byte) (success : Bool)
  /-- EXTRACT_RAW, SIGN_EXTEND, EXTRACT: the 64-bit value. -/
  | raw (v : BitVec 64)
  /-- CHECK_AVAILABLE. -/
  | available (b : Bool)
  /-- SCALE. -/
  | scaled (x : F64)
  /-- ENUM_LOOKUP. -/
  | enumText (t : Option Text)
  /-- DECODE_SIGNAL. -/
  | signal (ds : DecodedSignal)
  /-- DECODE_MESSAGE. -/
  | message (dm : DecodedMessage)
  /-- READ_U8: the value and the new cursor. -/
  | readU8 (v : Byte) (cursor : Nat)
  /-- READ_U16. -/
  | readU16 (v : BitVec 16) (cursor : Nat)
  /-- READ_U32. -/
  | readU32 (v : BitVec 32) (cursor : Nat)
  /-- READ_VAR_STRING. -/
  | readText (t : Text) (cursor : Nat)
  /-- SPLIT_BITS. -/
  | field (v : Byte)
  /-- READ_REPEATED: the announced count, the records read, the new cursor. -/
  | records (count : Byte) (records : List (List DecodedSignal)) (cursor : Nat)
  /-- WRITE_x: the new payload and the new cursor. -/
  | written (p : Bytes) (cursor : Nat)
  /-- OBSERVE. -/
  | updated (b : Bool)
  /-- RECOMPUTE_CONFLICTS: CONF and the set of conflicting sources. -/
  | conflictReport (conf : List InstanceConflict) (csrc : List Byte)
  /-- CLEAR: no result. -/
  | done
  /-- HAS_CONFLICT. -/
  | hasConflict (b : Bool)
  /-- CONFLICTS_FOR_PGN. -/
  | conflicts (cs : List InstanceConflict)
deriving DecidableEq, Repr

/-- One response: OK with its results, or a failure; DECODE_MESSAGE's failures carry the rejected message, "the
results the rule states after the word with" (60_exceptions.md R170, 44_signal_decode.md R132). -/
inductive Response where
  | ok (r : Result)
  | fail (f : Failure) (rejected : Option DecodedMessage)
deriving DecidableEq, Repr

/-- The faults that stop the machine: none. "No condition in this core is fatal" (60_exceptions.md R170), there is
no trap (R175), and no behaviour of PCD is stuck (93_implementation_defined.md). -/
inductive Fault : Type
deriving DecidableEq, Repr

/-- The reasons a request is given no meaning. -/
inductive Refusal where
  /-- Raised by `exec` for an instruction that has no meaning yet; safe. No arm raises it. -/
  | notModelled (mnemonic : String)
  /-- Raised by a meaning whose operands break the ranges of their types: "A model refuses such a request"
  (00_scope.md R8); safe: the spec gives it no behaviour. -/
  | outOfContract
  /-- Raised by the step when the request's bytes are no instruction (30_encoding.md R63 "is not an operation:
  refuse"); safe: the spec gives it no behaviour. -/
  | undecodable (r : Reject)
deriving DecidableEq, Repr

/-- The machine's state. -/
structure State where
  /-- REC (10_state.md R11): strictly rising in (pgn, source). -/
  recs : List InstanceRecord
  /-- CONF (10_state.md R12): ascending in (pgn, instance). -/
  conf : List InstanceConflict
  /-- The host's requests not executed yet, oldest first (log entry 1). -/
  pending : List Request
  /-- The response to the last request executed (log entry 1). -/
  response : Option Response
deriving DecidableEq, Repr

/-- The state with another response. -/
def State.withResponse (s : State) (r : Response) : State :=
  { s with response := some r }

/-- The state with another record store and conflict collection. -/
def State.withDetector (s : State) (recs : List InstanceRecord) (conf : List InstanceConflict) : State :=
  { s with recs := recs, conf := conf }

/-- The state with other pending requests. -/
def State.withPending (s : State) (pending : List Request) : State :=
  { s with pending := pending }

/-- Reset: REC and CONF empty (10_state.md R20, 70_reset_and_hazards.md R185); no request pending and no response
given (log entry 1). -/
def State.reset : State :=
  { recs := [], conf := [], pending := [], response := none }

end Sys2Proof.Machine
end

