-- ==== Sys2Proof/Machine/Ops.lean ====
section
/-! DEFINITION. The shared operations over the state: answering a request, refusing one outside the contract, and the
codes of a response. PCD has no exception entry and no return from one: a failure is a response (60_exceptions.md rules
R170, R175, R176), so `answer` is the one way an operation ends. -/

namespace Sys2Proof.Machine

/-- What a meaning gives. -/
abbrev Outcome := Host.Outcome State Fault Refusal

/-- The operation ends with this response; nothing else of the state changes (R170). -/
def answer (s : State) (r : Response) : Outcome :=
  .next (s.withResponse r)

/-- `answer` for operands within their declared ranges; any other request is refused (00_scope.md R8). -/
def answerIf (inContract : Bool) (s : State) (r : Response) : Outcome :=
  if inContract then answer s r else .refused .outOfContract

/-- The response of an operation that may fail: its results, or the failure alone (R170). -/
def respond {α : Type} (result : α → Result) : Except Failure α → Response
  | .ok x => .ok (result x)
  | .error f => .fail f none

end Sys2Proof.Machine

namespace Sys2Proof

/-- The status a failure is reported under (60_exceptions.md R171). -/
def Failure.status : Failure → Status
  | .shortPayload => .malformed
  | .shortForType => .malformed
  | .pastEnd => .malformed
  | .tooManyPairs => .malformed
  | .emptyValue => .malformed
  | .tooLong => .malformed
  | .noParameters => .malformed
  | .wrongHeader => .identityMismatch
  | .wrongTag => .identityMismatch
  | .wrongFunctionCode => .identityMismatch
  | .wrongTargetPgn => .identityMismatch
  | .unknownTag _ => .unsupported
  | .noDecoder => .unsupported
  | .bitRangeExceedsPayload => .signalFail

/-- The code of a sub-cause (60_exceptions.md R171). -/
def Failure.code : Failure → Byte
  | .shortPayload => 0x10
  | .shortForType => 0x11
  | .pastEnd => 0x12
  | .tooManyPairs => 0x13
  | .emptyValue => 0x14
  | .tooLong => 0x15
  | .noParameters => 0x16
  | .wrongHeader => 0x20
  | .wrongTag => 0x21
  | .wrongFunctionCode => 0x22
  | .wrongTargetPgn => 0x23
  | .unknownTag _ => 0x30
  | .noDecoder => 0x31
  | .bitRangeExceedsPayload => 0x40

/-- The information a failure records: the tag, for UnknownTag alone (60_exceptions.md R171). -/
def Failure.info : Failure → Option Byte
  | .unknownTag t => some t
  | _ => none

/-- The code of a status (60_exceptions.md R171). -/
def Status.code : Status → Byte
  | .ok => 0x00
  | .malformed => 0x01
  | .identityMismatch => 0x02
  | .unsupported => 0x03
  | .signalFail => 0x04

end Sys2Proof

namespace Sys2Proof.Machine

/-- The status of a response (60_exceptions.md R171). -/
def Response.status : Response → Status
  | .ok _ => .ok
  | .fail f _ => f.status

end Sys2Proof.Machine
end

