-- ==== Sys2Proof/Machine/Header.lean ====
section
/-! DEFINITION. The header codec, the validity gate and the bus identifier (40_header_codec.md). -/

namespace Sys2Proof.Machine

/-- The expected manufacturer and industry codes (00_scope.md R5). -/
def vendorManufacturer : BitVec 16 := 1512

def vendorIndustry : Byte := 4

/-- `combined` of PACK_HDR (R80). -/
def packCombined (manufacturer : BitVec 16) (industry : Byte) : BitVec 16 :=
  (manufacturer &&& 0x7FF#16) ||| ((industry &&& 0x7#8).setWidth 16 <<< 13)

/-- PACK_HDR: byte0 and byte1 (R80). -/
def packHdr (manufacturer : BitVec 16) (industry : Byte) : Byte × Byte :=
  let combined := packCombined manufacturer industry
  (combined.extractLsb' 0 8, combined.extractLsb' 8 8)

/-- UNPACK_HDR: manufacturer and industry (R81). -/
def unpackHdr (byte0 byte1 : Byte) : BitVec 16 × Byte :=
  let combined : BitVec 16 := byte0.setWidth 16 ||| (byte1.setWidth 16 <<< 8)
  (combined &&& 0x7FF#16, ((combined >>> 13) &&& 0x7#16).setWidth 8)

/-- MAKE_ID (R82): a destination other than 255 is OR-ed into bits 15:8 (D5). -/
def makeId (priority : Byte) (pgn : Pgn) (source destination : Byte) : BitVec 32 :=
  let id : BitVec 32 :=
    (priority.setWidth 32 <<< 26) ||| ((pgn &&& 0x3FFFF#32) <<< 8) ||| source.setWidth 32
  if destination ≠ broadcast then id ||| (destination.setWidth 32 <<< 8) else id

/-- The header's two bytes unpack to the vendor constants. -/
def isVendorHeader (byte0 byte1 : Byte) : Bool :=
  unpackHdr byte0 byte1 == (vendorManufacturer, vendorIndustry)

/-- IS_VALID (R83). -/
def isValid : Bytes → Bool
  | byte0 :: byte1 :: _ :: _ => isVendorHeader byte0 byte1
  | _ => false

/-- GET_PROP_ID (R84): the header is not checked again (D35). -/
def getPropId : Bytes → Except Failure Byte
  | _ :: _ :: tag :: _ => .ok tag
  | _ => .error .shortPayload

/-- PACK_HDR (R80). -/
def execPackHdr (manufacturer : BitVec 16) (industry : Byte) (s : State) : Outcome :=
  let b := packHdr manufacturer industry
  answer s (.ok (.headerBytes b.1 b.2))

/-- UNPACK_HDR (R81). -/
def execUnpackHdr (byte0 byte1 : Byte) (s : State) : Outcome :=
  let h := unpackHdr byte0 byte1
  answer s (.ok (.headerFields h.1 h.2))

/-- MAKE_ID (R82); a priority above 7 is refused (R8). -/
def execMakeId (priority : Byte) (pgn : Pgn) (source destination : Byte) (s : State) : Outcome :=
  answerIf (priorityOk priority) s (.ok (.id (makeId priority pgn source destination)))

/-- IS_VALID (R83). -/
def execIsValid (payload : Bytes) (s : State) : Outcome :=
  answerIf (payloadOk payload) s (.ok (.valid (isValid payload)))

/-- GET_PROP_ID (R84). -/
def execGetPropId (payload : Bytes) (s : State) : Outcome :=
  answerIf (payloadOk payload) s (respond .tag (getPropId payload))

end Sys2Proof.Machine
end

