-- ==== Sys2Proof/Machine/Bytes.lean ====
section
/-! DEFINITION. Byte order, bit order and access to a payload (20_memory.md rules R31 to R35): the one place where
little-endian is decided. Bounds are checked by the callers, as the rules do (R33, R38). -/

namespace Sys2Proof.Machine

/-- The unsigned integer whose little-endian bytes these are: the lowest index holds the least significant 8 bits
(R31). -/
def leNat : Bytes → Nat
  | [] => 0
  | b :: bs => b.toNat + 256 * leNat bs

/-- The low `n` bytes of `v`, least significant first (R31). -/
def leBytes : Nat → Nat → Bytes
  | 0, _ => []
  | n + 1, v => BitVec.ofNat 8 v :: leBytes n (v / 256)

/-- `p[addr .. addr + n)` (R9). -/
def slice (p : Bytes) (addr n : Nat) : Bytes :=
  (p.drop addr).take n

/-- MemRead(p, addr, n), for addr + n ≤ len(p) (R33). -/
def memRead (p : Bytes) (addr n : Nat) : Nat :=
  leNat (slice p addr n)

/-- p with its bytes from `addr` on replaced by `bs`, for addr + len(bs) ≤ len(p). -/
def overwrite (p : Bytes) (addr : Nat) (bs : Bytes) : Bytes :=
  p.take addr ++ bs ++ p.drop (addr + bs.length)

/-- MemWrite(p, addr, n, v), for addr + n ≤ len(p); bits of v above 8·n are dropped (R34). -/
def memWrite (p : Bytes) (addr n v : Nat) : Bytes :=
  overwrite p addr (leBytes n v)

/-- Payload bit k: bit (k mod 8) of byte (k div 8); false beyond the payload (R32, R123). -/
def pbit (p : Bytes) (k : Nat) : Bool :=
  (p.getD (k / 8) 0).getLsbD (k % 8)

/-- A frame of `n` zero bytes (R35). -/
def zeroFill (n : Nat) : Bytes :=
  List.replicate n 0

end Sys2Proof.Machine
end

