-- ==== Sys2Proof/Machine/Layout.lean ====
section
/-! DEFINITION. The proprietary layouts (30_encoding.md rules R54, R55, R60): the tag map, the built lengths, and where
each field of a payload stands. -/

namespace Sys2Proof.Machine

/-- The tag of a message type (30_encoding.md R60). -/
def tagCode : PropTag → Byte
  | .simpleAction => 1
  | .stateInfo => 2
  | .customHsb => 3
  | .startPattern => 4
  | .outputChannelPwm => 7

/-- The payload length a builder produces (30_encoding.md R55; 8 for PWM by C1 and D6). -/
def builtLength : PropTag → Nat
  | .simpleAction => 6
  | .stateInfo => 7
  | .customHsb => 8
  | .startPattern => 6
  | .outputChannelPwm => 8

/-- The message type of a tag, if it has a layout (30_encoding.md R60). -/
def tagOfCode (t : Byte) : Option PropTag :=
  match t.toNat with
  | 1 => some .simpleAction
  | 2 => some .stateInfo
  | 3 => some .customHsb
  | 4 => some .startPattern
  | 7 => some .outputChannelPwm
  | _ => none

/-- payload[i]. Beyond the payload, where the spec states no byte, it is the configuration's free value (log entry
16). -/
def byteAt (cfg : Config) (p : Bytes) (i : Nat) : Byte :=
  (p[i]?).getD (cfg.absentByte p i)

/-- The fields of each layout, read positionally from index 3 on (R54); the transition time is little-endian. -/
def propFields (cfg : Config) (p : Bytes) : PropTag → PropMessage
  | .simpleAction => .simpleAction (byteAt cfg p 3) (byteAt cfg p 4)
  | .stateInfo => .stateInfo (byteAt cfg p 3) (byteAt cfg p 4) (byteAt cfg p 5)
  | .customHsb =>
    .customHsb (byteAt cfg p 3) (byteAt cfg p 4) (byteAt cfg p 5) (byteAt cfg p 6) (byteAt cfg p 7)
  | .startPattern => .startPattern (byteAt cfg p 3) (byteAt cfg p 4)
  | .outputChannelPwm =>
    .outputChannelPwm (byteAt cfg p 3) (byteAt cfg p 4) (byteAt cfg p 6 ++ byteAt cfg p 5)

end Sys2Proof.Machine
end

