-- ==== Sys2Proof/Machine/Builders.lean ====
section
/-! DEFINITION. The proprietary message builders (41_builders.md): one procedure BUILD (R90) over the table of tags and
lengths (30_encoding.md R55, R60). No builder fails (D9). -/

namespace Sys2Proof.Machine

/-- The positional writes of BUILD: each field is (width in bytes, value), at the private cursor. -/
def writeFields : List (Nat × Nat) → Nat → Bytes → Bytes
  | [], _, p => p
  | (w, v) :: fields, cur, p => writeFields fields (cur + w) (memWrite p cur w v)

/-- BUILD (R90): zero-fill, identifier, header, tag, type-specific fields. -/
def build (cfg : Config) (tag : PropTag) (dest src : Byte) (fields : List (Nat × Nat)) : Frame :=
  let header := packHdr vendorManufacturer vendorIndustry
  { id := makeId cfg.propPriorityByte cfg.propPgn src dest
    payload :=
      writeFields ((1, header.1.toNat) :: (1, header.2.toNat) :: (1, (tagCode tag).toNat) :: fields) 0
        (zeroFill (builtLength tag)) }

/-- A one-byte field. -/
def field8 (v : Byte) : Nat × Nat := (1, v.toNat)

/-- A two-byte field. -/
def field16 (v : BitVec 16) : Nat × Nat := (2, v.toNat)

def createSimpleAction (cfg : Config) (dest src action switch : Byte) : Frame :=
  build cfg .simpleAction dest src [field8 action, field8 switch]

def createStateInfo (cfg : Config) (dest src switch state type : Byte) : Frame :=
  build cfg .stateInfo dest src [field8 switch, field8 state, field8 type]

def createCustomHsb (cfg : Config) (dest src action switch hue sat bright : Byte) : Frame :=
  build cfg .customHsb dest src [field8 action, field8 switch, field8 hue, field8 sat, field8 bright]

def createStartPattern (cfg : Config) (dest src switch pattern : Byte) : Frame :=
  build cfg .startPattern dest src [field8 switch, field8 pattern]

def createOutputChannelPwm (cfg : Config) (dest src channel duty : Byte) (transitionTime : BitVec 16) : Frame :=
  build cfg .outputChannelPwm dest src [field8 channel, field8 duty, field16 transitionTime]

/-- CREATE_SIMPLE_ACTION (R91). -/
def execCreateSimpleAction (dest src action switch : Byte) (s : State) : Outcome :=
  answer s (.ok (.frame (createSimpleAction Config.current dest src action switch)))

/-- CREATE_STATE_INFO (R92). -/
def execCreateStateInfo (dest src switch state type : Byte) (s : State) : Outcome :=
  answer s (.ok (.frame (createStateInfo Config.current dest src switch state type)))

/-- CREATE_CUSTOM_HSB (R93). -/
def execCreateCustomHsb (dest src action switch hue sat bright : Byte) (s : State) : Outcome :=
  answer s (.ok (.frame (createCustomHsb Config.current dest src action switch hue sat bright)))

/-- CREATE_START_PATTERN (R94). -/
def execCreateStartPattern (dest src switch pattern : Byte) (s : State) : Outcome :=
  answer s (.ok (.frame (createStartPattern Config.current dest src switch pattern)))

/-- CREATE_OUTPUT_CHANNEL_PWM (R95). -/
def execCreateOutputChannelPwm (dest src channel duty : Byte) (transitionTime : BitVec 16) (s : State) : Outcome :=
  answer s (.ok (.frame (createOutputChannelPwm Config.current dest src channel duty transitionTime)))

end Sys2Proof.Machine
end

