-- ==== Sys2Proof/Machine/Conflict.lean ====
section
/-! DEFINITION. The Instance Conflict Detector (46_instance_conflict.md): the record store REC, the function
`conflicts`, and the five operations. REC and CONF are the whole persistent state of PCD. REC is held in one canonical
form, strictly rising in (pgn, source), so that equal stores are equal lists (log entry 11). -/

namespace Sys2Proof.Machine

/-- The key (pgn, source) of a record as one number (10_state.md R11). -/
def recKey (pgn : Pgn) (source : Byte) : Nat :=
  pgn.toNat * 256 + source.toNat

/-- The key of a record. -/
def keyOf (r : InstanceRecord) : Nat :=
  recKey r.pgn r.source

/-- The canonical form of REC: strictly rising keys, hence at most one binding per key (10_state.md R11). -/
def recStoreWf : List InstanceRecord → Bool
  | [] => true
  | r :: rs => rs.all (fun q => decide (keyOf r < keyOf q)) && recStoreWf rs

/-- REC[(pgn, source)]. -/
def recLookup (recs : List InstanceRecord) (pgn : Pgn) (source : Byte) : Option InstanceRecord :=
  recs.find? (fun r => r.pgn == pgn && r.source == source)

/-- REC with the binding of r's key inserted or overwritten (R155). -/
def recUpsert (r : InstanceRecord) : List InstanceRecord → List InstanceRecord
  | [] => [r]
  | q :: qs =>
    if keyOf r < keyOf q then r :: q :: qs
    else if keyOf r = keyOf q then r :: qs
    else q :: recUpsert r qs

/-- An ascending list without repeats with one more member; `key` is what it ascends in. -/
def insertAsc {α : Type} (key : α → Nat) (x : α) : List α → List α
  | [] => [x]
  | y :: ys =>
    if key x < key y then x :: y :: ys
    else if key x = key y then y :: ys
    else y :: insertAsc key x ys

/-- The members of a list as an ascending list without repeats. -/
def toAsc {α : Type} (key : α → Nat) (xs : List α) : List α :=
  xs.foldr (insertAsc key) []

/-- S(g, i): the sources whose record of PGN g has instance i, ascending (R156). -/
def sourcesOf (recs : List InstanceRecord) (pgn : Pgn) (inst : Byte) : List Byte :=
  toAsc BitVec.toNat ((recs.filter (fun r => r.pgn == pgn && r.inst == inst)).map (fun r => r.source))

/-- The (pgn, instance) groups that some record belongs to, ascending. -/
def groups (recs : List InstanceRecord) : List (Pgn × Byte) :=
  toAsc (fun g => recKey g.1 g.2) (recs.map (fun r => (r.pgn, r.inst)))

/-- The conflict of one group, if it spans more than one distinct source (R156). -/
def groupConflict (recs : List InstanceRecord) (g : Pgn × Byte) : Option InstanceConflict :=
  let sources := sourcesOf recs g.1 g.2
  if 1 < sources.length then some { pgn := g.1, inst := g.2, sources := sources } else none

/-- conflicts(REC) (R156), listed ascending by (pgn, instance) (D29). -/
def conflicts (recs : List InstanceRecord) : List InstanceConflict :=
  (groups recs).filterMap (groupConflict recs)

/-- csrc: the union of the conflicting sources (R156), ascending. -/
def csrc (conf : List InstanceConflict) : List Byte :=
  toAsc BitVec.toNat (conf.flatMap (fun c => c.sources))

/-- The instance byte OBSERVE takes from a message: none when the PGN is not in the allow-list or the payload is too
short for it (R155, D28). -/
def observedInstance (cfg : Config) (m : Message) : Option Byte :=
  match cfg.instanceOffset m.pgn with
  | none => none
  | some off => m.payload[off]?

/-- The detector after OBSERVE of a message within the contract (R155): REC is upserted and CONF recomputed (D29), or
nothing changes. -/
def observed (cfg : Config) (m : Message) (now : Timestamp) (s : State) : State :=
  match observedInstance cfg m with
  | none => s
  | some inst =>
    let recs := recUpsert { pgn := m.pgn, source := m.source, inst := inst, lastSeen := now } s.recs
    s.withDetector recs (conflicts recs)

/-- The effect of OBSERVE on a message within the contract (R155); `updated` says whether the message counted. -/
def observe (cfg : Config) (m : Message) (now : Timestamp) (s : State) : Outcome :=
  answer (observed cfg m now s) (.ok (.updated (observedInstance cfg m).isSome))

/-- OBSERVE (R155). -/
def execObserve (message : Message) (now : Timestamp) (s : State) : Outcome :=
  if messageOk message then observe Config.current message now s else .refused .outOfContract

/-- RECOMPUTE_CONFLICTS (R160). -/
def execRecomputeConflicts (s : State) : Outcome :=
  let conf := conflicts s.recs
  answer (s.withDetector s.recs conf) (.ok (.conflictReport conf (csrc conf)))

/-- CLEAR (R157). -/
def execClear (s : State) : Outcome :=
  answer (s.withDetector [] []) (.ok .done)

/-- HAS_CONFLICT (R158): membership in some conflict's sources. -/
def execHasConflict (source : Byte) (s : State) : Outcome :=
  answer s (.ok (.hasConflict (s.conf.any (fun c => c.sources.contains source))))

/-- CONFLICTS_FOR_PGN (R159). -/
def execConflictsForPgn (pgn : Pgn) (s : State) : Outcome :=
  answer s (.ok (.conflicts (s.conf.filter (fun c => c.pgn == pgn))))

end Sys2Proof.Machine
end

