-- ==== Sys2Proof/Machine/Flags.lean ====
section
/-! DEFINITION. The flags of a response. PCD has no flag register (10_state.md R15); the flags its operations compute
are the availability of a raw value (44_signal_decode.md R126) and the `valid` flag of a scaled one (R131). -/

namespace Sys2Proof.Machine

/-- The mathematical integer a 64-bit pattern stands for (44_signal_decode.md, before R120). -/
def sval (raw : BitVec 64) (isSigned : Bool) : Int :=
  if isSigned then raw.toInt else raw.toNat

/-- The smallest "not available" value of a field of this width, where there is one (00_scope.md R5). -/
def naThreshold (bitLength : Nat) : Option Int :=
  if bitLength = 8 then some 250
  else if bitLength = 16 then some 65530
  else if bitLength = 32 then some 4294967290
  else none

/-- CHECK_AVAILABLE (R126): the comparison is made on the value as the field's signedness reads it (D15). -/
def available (raw : BitVec 64) (bitLength : Nat) (isSigned : Bool) : Bool :=
  match naThreshold bitLength with
  | some t => decide (sval raw isSigned < t)
  | none => true

/-- RANGE_OK (R131). -/
def rangeOk (cfg : Config) (x : F64) (sd : SignalDef) : Bool :=
  if cfg.rangeCheck then cfg.f64.le sd.minVal x && cfg.f64.le x sd.maxVal else true

end Sys2Proof.Machine
end

