-- ==== Sys2Proof/Machine/SignalDecode.lean ====
section
/-! DEFINITION. The Signal Decode Engine (44_signal_decode.md): extraction, sign extension, scaling, enumeration and the
decoding of a signal and of a message. -/

namespace Sys2Proof.Machine

/-- FAST (R121): the bytes of the field that the payload has, little-endian. -/
def extractFast (p : Bytes) (s n : Nat) : BitVec 64 :=
  BitVec.ofNat 64 (leNat (slice p (s / 8) (n / 8)))

/-- The loop of GENERAL (R122): `bs` are the bytes from the one being walked on, `sh` the bits to drop from the first
of them, `got` the bits consumed. No shift reaches 64 (70_reset_and_hazards.md R193). -/
def generalWalk (n : Nat) : Bytes → Nat → Nat → BitVec 64 → BitVec 64
  | [], _, _, acc => acc
  | b :: bs, sh, got, acc =>
    if got < n then
      let take := min (8 - sh) (n - got)
      let chunk := (b >>> sh) &&& BitVec.ofNat 8 (2 ^ take - 1)
      generalWalk n bs 0 (got + take) (acc ||| (chunk.setWidth 64 <<< got))
    else acc

/-- GENERAL (R122). -/
def extractGeneral (p : Bytes) (s n : Nat) : BitVec 64 :=
  generalWalk n (p.drop (s / 8)) (s % 8) 0 0

/-- EXTRACT_RAW (R120): the path is chosen by alignment. Bits beyond the payload read as 0 (D23). -/
def extractRaw (p : Bytes) (s n : Nat) : BitVec 64 :=
  if s % 8 = 0 ∧ n % 8 = 0 then extractFast p s n else extractGeneral p s n

/-- SIGN_EXTEND (R124): a 64-bit field is returned unchanged, and that test comes first (R193). -/
def signExtend (raw : BitVec 64) (n : Nat) (isSigned : Bool) : BitVec 64 :=
  if isSigned && decide (n < 64) then
    if raw.getLsbD (n - 1) then raw ||| ~~~((1#64 <<< n) - 1#64) else raw
  else raw

/-- EXTRACT (R125). -/
def extract (p : Bytes) (sd : SignalDef) : BitVec 64 :=
  signExtend (extractRaw p sd.startBit.toNat sd.bitLength) sd.bitLength sd.isSigned

/-- TEMP_CORRECT (R128). -/
def tempCorrect (cfg : Config) (v : Int) (unit : Text) (x : F64) : F64 :=
  match cfg.tempFix with
  | none => x
  | some (threshold, isCelsius) =>
    if isCelsius unit && cfg.f64.lt threshold x then
      cfg.f64.sub (cfg.f64.mul (cfg.f64.ofInt v) Binary64.oneHundredth) Binary64.kelvinOffset
    else x

/-- SCALE (R127): raw·scale + offset, one multiplication and one addition, then TEMP_CORRECT. -/
def scale (cfg : Config) (raw : BitVec 64) (sd : SignalDef) : F64 :=
  let v := sval raw sd.isSigned
  tempCorrect cfg v sd.unit
    (cfg.f64.add (cfg.f64.mul (cfg.f64.ofInt v) sd.scale) sd.offset)

/-- ENUM_LOOKUP (R129): the key is the value as the field's signedness reads it (D17). -/
def enumLookup (raw : BitVec 64) (sd : SignalDef) : Option Text :=
  match sd.enumTable with
  | none => none
  | some t => (t.find? (fun e => decide (e.1 = sval raw sd.isSigned))).map (fun e => e.2)

/-- A signal reported as not available, with valid = false (R130, R132). -/
def unavailable (sd : SignalDef) : DecodedSignal :=
  { name := sd.name, unit := sd.unit, value := .notAvailable, valid := false }

/-- DECODE_SIGNAL (R130), in the rule's order (D16). -/
def decodeSignal (cfg : Config) (p : Bytes) (sd : SignalDef) : Except Failure DecodedSignal :=
  if 8 * p.length < sd.startBit.toNat + sd.bitLength then .error .bitRangeExceedsPayload
  else
    let raw := extract p sd
    if !available raw sd.bitLength sd.isSigned then .ok (unavailable sd)
    else
      let x := scale cfg raw sd
      let value := match enumLookup raw sd with
        | some t => SignalValue.enumerated t
        | none => SignalValue.numeric x
      .ok { name := sd.name, unit := sd.unit, value := value, valid := rangeOk cfg x sd }

/-- DECODE_SIGNAL with a failure folded into a signal that is not available (R132, R145, D21). -/
def decodeFolded (cfg : Config) (p : Bytes) (sd : SignalDef) : DecodedSignal :=
  match decodeSignal cfg p sd with
  | .ok ds => ds
  | .error _ => unavailable sd

/-- A message rejected up front (R132, D22). -/
def rejectedMessage (name description : Text) : DecodedMessage :=
  { name := name, description := description, signals := [], decoded := false }

/-- DECODE_MESSAGE (R132). -/
def decodeMessage (cfg : Config) (m : Message) : Response :=
  if cfg.ignorePgns.contains m.pgn then .fail .noDecoder (some (rejectedMessage [] []))
  else
    match cfg.decoder m.pgn with
    | none => .fail .noDecoder (some (rejectedMessage [] []))
    | some (.special f) => .ok (.message (f m.payload))
    | some (.generic sch) =>
      if m.payload.length < sch.minLen then
        .fail .shortForType (some (rejectedMessage sch.name sch.description))
      else
        .ok (.message
          { name := sch.name
            description := sch.description
            signals := sch.signals.map (decodeFolded cfg m.payload)
            decoded := true })

/-- EXTRACT_RAW (R120). -/
def execExtractRaw (payload : Bytes) (startBit : BitVec 32) (bitLength : Nat) (s : State) : Outcome :=
  answerIf (payloadOk payload && bitLengthOk bitLength) s
    (.ok (.raw (extractRaw payload startBit.toNat bitLength)))

/-- SIGN_EXTEND (R124). -/
def execSignExtend (raw : BitVec 64) (bitLength : Nat) (isSigned : Bool) (s : State) : Outcome :=
  answerIf (bitLengthOk bitLength) s (.ok (.raw (signExtend raw bitLength isSigned)))

/-- EXTRACT (R125). -/
def execExtract (payload : Bytes) (sd : SignalDef) (s : State) : Outcome :=
  answerIf (payloadOk payload && signalDefOk sd) s (.ok (.raw (extract payload sd)))

/-- CHECK_AVAILABLE (R126). -/
def execCheckAvailable (raw : BitVec 64) (bitLength : Nat) (isSigned : Bool) (s : State) : Outcome :=
  answerIf (bitLengthOk bitLength) s (.ok (.available (available raw bitLength isSigned)))

/-- SCALE (R127). -/
def execScale (raw : BitVec 64) (sd : SignalDef) (s : State) : Outcome :=
  answerIf (signalDefOk sd) s (.ok (.scaled (scale Config.current raw sd)))

/-- ENUM_LOOKUP (R129). -/
def execEnumLookup (raw : BitVec 64) (sd : SignalDef) (s : State) : Outcome :=
  answerIf (signalDefOk sd) s (.ok (.enumText (enumLookup raw sd)))

/-- DECODE_SIGNAL (R130). -/
def execDecodeSignal (payload : Bytes) (sd : SignalDef) (s : State) : Outcome :=
  answerIf (payloadOk payload && signalDefOk sd) s
    (respond .signal (decodeSignal Config.current payload sd))

/-- DECODE_MESSAGE (R132); the Message's cursor is neither read nor written. -/
def execDecodeMessage (message : Message) (s : State) : Outcome :=
  answerIf (messageOk message) s (decodeMessage Config.current message)

end Sys2Proof.Machine
end

