-- ==== Sys2Proof/Machine/Cursor.lean ====
section
/-! DEFINITION. The cursor, text, repeat and mask/shift primitives (45_cursor_primitives.md). Each takes the payload
and the cursor and returns the value and the new cursor; a failed one returns no cursor, so the host keeps its own
(D25). -/

namespace Sys2Proof.Machine

/-- The bounded read of `n` bytes at the cursor, with the new cursor (R140 to R142). -/
def readAt (p : Bytes) (cur n : Nat) : Except Failure (Nat × Nat) :=
  if p.length < cur + n then .error .pastEnd else .ok (memRead p cur n, cur + n)

/-- The bounded write of `n` bytes at the cursor, with the new cursor (R146 to R148). -/
def writeAt (p : Bytes) (cur n v : Nat) : Except Failure (Bytes × Nat) :=
  if p.length < cur + n then .error .pastEnd else .ok (memWrite p cur n v, cur + n)

/-- READ_VAR_STRING (R143): the cursor moves past the whole field, as far as the payload goes (D26). -/
def readVarString (cfg : Config) (p : Bytes) (cur : Nat) : Except Failure (Text × Nat) :=
  match p[cur]? with
  | none => .error .pastEnd
  | some len =>
    let rem := p.length - (cur + 1)
    let body := min len.toNat rem
    let keep := min body cfg.strMax
    .ok (slice p (cur + 1) keep, cur + 1 + body)

/-- SPLIT_BITS (R144). -/
def splitBits (byte : Byte) (lo width : Nat) : Byte :=
  (byte >>> lo) &&& BitVec.ofNat 8 (2 ^ width - 1)

/-- The signals of sub-record `i` with bytes `r` (R145). -/
def decodeRecord (cfg : Config) (r : Bytes) (fields : List SignalDef) (i : Nat) : List DecodedSignal :=
  fields.map fun sd => { decodeFolded cfg r sd with name := cfg.indexName sd.name i }

/-- The loop of READ_REPEATED (R145): `left` sub-records are still announced, `i` have been read, `c` is the private
cursor. It stops at the first sub-record that does not fit (D27). -/
def readRecords (cfg : Config) (p : Bytes) (recSize : Nat) (fields : List SignalDef) :
    Nat → Nat → Nat → List (List DecodedSignal) × Nat
  | 0, _, c => ([], c)
  | left + 1, i, c =>
    if c + recSize ≤ p.length then
      let rest := readRecords cfg p recSize fields left (i + 1) (c + recSize)
      (decodeRecord cfg (slice p c recSize) fields i :: rest.1, rest.2)
    else ([], c)

/-- READ_REPEATED (R145): the announced count, the records, the new cursor. -/
def readRepeated (cfg : Config) (p : Bytes) (cur recSize : Nat) (fields : List SignalDef) :
    Except Failure (Byte × List (List DecodedSignal) × Nat) :=
  match p[cur]? with
  | none => .error .pastEnd
  | some count => .ok (count, readRecords cfg p recSize fields count.toNat 0 (cur + 1))

/-- READ_U8 (R140). -/
def execReadU8 (payload : Bytes) (cursor : Nat) (s : State) : Outcome :=
  answerIf (cursorOk payload cursor) s
    (respond (fun r => .readU8 (BitVec.ofNat 8 r.1) r.2) (readAt payload cursor 1))

/-- READ_U16 (R141). -/
def execReadU16 (payload : Bytes) (cursor : Nat) (s : State) : Outcome :=
  answerIf (cursorOk payload cursor) s
    (respond (fun r => .readU16 (BitVec.ofNat 16 r.1) r.2) (readAt payload cursor 2))

/-- READ_U32 (R142). -/
def execReadU32 (payload : Bytes) (cursor : Nat) (s : State) : Outcome :=
  answerIf (cursorOk payload cursor) s
    (respond (fun r => .readU32 (BitVec.ofNat 32 r.1) r.2) (readAt payload cursor 4))

/-- READ_VAR_STRING (R143). -/
def execReadVarString (payload : Bytes) (cursor : Nat) (s : State) : Outcome :=
  answerIf (cursorOk payload cursor) s
    (respond (fun r => .readText r.1 r.2) (readVarString Config.current payload cursor))

/-- SPLIT_BITS (R144). -/
def execSplitBits (byte : Byte) (lo width : Nat) (s : State) : Outcome :=
  answerIf (splitOk lo width) s (.ok (.field (splitBits byte lo width)))

/-- READ_REPEATED (R145). -/
def execReadRepeated (payload : Bytes) (cursor recSize : Nat) (fields : List SignalDef) (s : State) : Outcome :=
  answerIf (repeatedOk payload cursor recSize fields) s
    (respond (fun r => .records r.1 r.2.1 r.2.2) (readRepeated Config.current payload cursor recSize fields))

/-- WRITE_U8 (R146). -/
def execWriteU8 (payload : Bytes) (cursor : Nat) (value : Byte) (s : State) : Outcome :=
  answerIf (cursorOk payload cursor) s
    (respond (fun r => .written r.1 r.2) (writeAt payload cursor 1 value.toNat))

/-- WRITE_U16 (R147). -/
def execWriteU16 (payload : Bytes) (cursor : Nat) (value : BitVec 16) (s : State) : Outcome :=
  answerIf (cursorOk payload cursor) s
    (respond (fun r => .written r.1 r.2) (writeAt payload cursor 2 value.toNat))

/-- WRITE_U24 (R148): bits 31:24 of the value are dropped. -/
def execWriteU24 (payload : Bytes) (cursor : Nat) (value : BitVec 32) (s : State) : Outcome :=
  answerIf (cursorOk payload cursor) s
    (respond (fun r => .written r.1 r.2) (writeAt payload cursor 3 (value &&& 0xFFFFFF#32).toNat))

end Sys2Proof.Machine
end

