-- ==== Sys2Proof/Machine/GroupFunction.lean ====
section
/-! DEFINITION. The group-function command builder and acknowledge parser (43_group_function.md). -/

namespace Sys2Proof.Machine

/-- GF_FUNC_ACK (00_scope.md R5). -/
def gfFuncAck : Byte := 2

/-- The bytes of the pairs, in order (30_encoding.md R56). -/
def pairsBytes (pairs : List (Byte × Bytes)) : Bytes :=
  pairs.flatMap fun e => e.1 :: e.2

/-- GF_BUILD_CMD (R110): the three bounds in the rule's order, then the envelope. The command code is always the
configured one (90_conflicts.md C10). -/
def gfBuildCmd (cfg : Config) (targetPgn : Pgn) (prioSetting : Byte) (pairs : List (Byte × Bytes)) :
    Except Failure Bytes :=
  if 255 < pairs.length then .error .tooManyPairs
  else if pairs.any (fun e => e.2.isEmpty) then .error .emptyValue
  else if payloadMax < 6 + (pairsBytes pairs).length then .error .tooLong
  else .ok (cfg.gfFuncCommand ::
    (leBytes 3 targetPgn.toNat ++ prioSetting :: BitVec.ofNat 8 pairs.length :: pairsBytes pairs))

/-- GF_PARSE_ACK (R112): byte 4 and the entries after the first are not read. -/
def gfParseAck (cfg : Config) (p : Bytes) (expectedPgn : Pgn) : Except Failure (Byte × Bool) :=
  match p with
  | f :: _ :: _ :: _ :: _ :: count :: entry1 :: _ =>
    if f ≠ gfFuncAck then .error .wrongFunctionCode
    else if memRead p 1 3 ≠ (expectedPgn &&& 0xFFFFFF#32).toNat then .error .wrongTargetPgn
    else if count = 0 then .error .noParameters
    else .ok (entry1, cfg.gfAckSuccess entry1)
  | _ => .error .shortPayload

/-- GF_BUILD_CMD (R110). -/
def execGfBuildCmd (targetPgn : Pgn) (prioSetting : Byte) (pairs : List (Byte × Bytes)) (s : State) : Outcome :=
  answer s (respond .payload (gfBuildCmd Config.current targetPgn prioSetting pairs))

/-- GF_PARSE_ACK (R112). -/
def execGfParseAck (payload : Bytes) (expectedPgn : Pgn) (s : State) : Outcome :=
  answerIf (payloadOk payload) s
    (respond (fun r => .ack r.1 r.2) (gfParseAck Config.current payload expectedPgn))

end Sys2Proof.Machine
end

