-- ==== Sys2Proof/Machine/Parsers.lean ====
section
/-! DEFINITION. The proprietary message parsers and the tag dispatch (42_parsers.md). Reserved bytes and bytes beyond
the layout are not read (D8). -/

namespace Sys2Proof.Machine

/-- PARSE_GATE (R100): the four tests in the rule's order (60_exceptions.md R173). -/
def parseGate (cfg : Config) (p : Bytes) (tag : PropTag) : Except Failure Unit :=
  match p with
  | b0 :: b1 :: t :: _ =>
    if !isVendorHeader b0 b1 then .error .wrongHeader
    else if t ≠ tagCode tag then .error .wrongTag
    else if p.length < (cfg.parseMinLen tag).val then .error .shortForType
    else .ok ()
  | _ => .error .shortPayload

/-- A parser: the gate, then the fields (R100 to R105). -/
def parseAs (cfg : Config) (tag : PropTag) (p : Bytes) : Except Failure PropMessage :=
  (parseGate cfg p tag).map fun _ => propFields cfg p tag

/-- PARSE_PROPRIETARY (R106). -/
def parseProprietary (cfg : Config) (p : Bytes) : Except Failure PropMessage :=
  if !isValid p then
    if p.length < 3 then .error .shortPayload else .error .wrongHeader
  else
    match getPropId p with
    | .error f => .error f
    | .ok t =>
      match tagOfCode t with
      | some tag => parseAs cfg tag p
      | none => .error (.unknownTag t)

/-- PARSE_PROPRIETARY (R106). -/
def execParseProprietary (payload : Bytes) (s : State) : Outcome :=
  answerIf (payloadOk payload) s (respond .parsed (parseProprietary Config.current payload))

/-- PARSE_SIMPLE_ACTION (R101). -/
def execParseSimpleAction (payload : Bytes) (s : State) : Outcome :=
  answerIf (payloadOk payload) s (respond .parsed (parseAs Config.current .simpleAction payload))

/-- PARSE_STATE_INFO (R102). -/
def execParseStateInfo (payload : Bytes) (s : State) : Outcome :=
  answerIf (payloadOk payload) s (respond .parsed (parseAs Config.current .stateInfo payload))

/-- PARSE_CUSTOM_HSB (R103). -/
def execParseCustomHsb (payload : Bytes) (s : State) : Outcome :=
  answerIf (payloadOk payload) s (respond .parsed (parseAs Config.current .customHsb payload))

/-- PARSE_START_PATTERN (R104). -/
def execParseStartPattern (payload : Bytes) (s : State) : Outcome :=
  answerIf (payloadOk payload) s (respond .parsed (parseAs Config.current .startPattern payload))

/-- PARSE_OUTPUT_CHANNEL_PWM (R105). -/
def execParseOutputChannelPwm (payload : Bytes) (s : State) : Outcome :=
  answerIf (payloadOk payload) s (respond .parsed (parseAs Config.current .outputChannelPwm payload))

end Sys2Proof.Machine
end

