-- ==== Sys2Proof/Machine/Wire.lean ====
section
/-! DEFINITION. The wire rows: a message of a fixed layout presented to PCD without an operation. PCD answers with what
its reader of that format gives: a recognised proprietary message with its fields (42_parsers.md R106, log entry 5), a
group-function payload as GF_PARSE_ACK does (43_group_function.md R112, R113, log entry 6), a header as UNPACK_HDR does
and an identifier's layout as MAKE_ID computes it (40_header_codec.md R81, R82, log entry 6). -/

namespace Sys2Proof.Machine

/-- A recognised proprietary message is answered with its fields. -/
def answerParsed (m : PropMessage) (s : State) : Outcome :=
  answer s (.ok (.parsed m))

/-- A group-function payload is answered as GF_PARSE_ACK answers it. -/
def answerGroupFunction (payload : Bytes) (expectedPgn : Pgn) (s : State) : Outcome :=
  answerIf (payloadOk payload) s
    (respond (fun r => .ack r.1 r.2) (gfParseAck Config.current payload expectedPgn))

/-- SIMPLE_ACTION: "built by R91, parsed by R101". -/
def execSimpleAction (action switch : Byte) (s : State) : Outcome :=
  answerParsed (.simpleAction action switch) s

/-- STATE_INFO: "built by R92, parsed by R102". -/
def execStateInfo (switch state type : Byte) (s : State) : Outcome :=
  answerParsed (.stateInfo switch state type) s

/-- CUSTOM_HSB: "built by R93, parsed by R103". -/
def execCustomHsb (action switch hue sat bright : Byte) (s : State) : Outcome :=
  answerParsed (.customHsb action switch hue sat bright) s

/-- START_PATTERN: "built by R94, parsed by R104". -/
def execStartPattern (switch pattern : Byte) (s : State) : Outcome :=
  answerParsed (.startPattern switch pattern) s

/-- OUTPUT_CHANNEL_PWM: "built by R95", parsed by R105. -/
def execOutputChannelPwm (channel duty : Byte) (transitionTime : BitVec 16) (s : State) : Outcome :=
  answerParsed (.outputChannelPwm channel duty transitionTime) s

/-- GF_COMMAND: an echoed command is, to the only reader PCD has, a payload with the wrong function code, or one too
short when it has no pair (R112). -/
def execGfCommand (targetPgn : BitVec 24) (priority pairCount : Byte) (pairBytes : Bytes) (s : State) : Outcome :=
  answerGroupFunction
    (Config.current.gfFuncCommand :: (leBytes 3 targetPgn.toNat ++ priority :: pairCount :: pairBytes)) 0 s

/-- GF_ACK: parsed by R112 with the PGN the host expects; byte 4 and further entries are not read. -/
def execGfAck (expectedPgn : Pgn) (targetPgn : BitVec 24) (paramCount entry1 : Byte) (s : State) : Outcome :=
  answerGroupFunction (gfFuncAck :: (leBytes 3 targetPgn.toNat ++ [0, paramCount, entry1])) expectedPgn s

/-- PROP_HEADER: "packed by R80, unpacked by R81, tested by R83": the fields of the vendor header. -/
def execPropHeader (s : State) : Outcome :=
  let b := packHdr vendorManufacturer vendorIndustry
  let h := unpackHdr b.1 b.2
  answer s (.ok (.headerFields h.1 h.2))

/-- BUS_ID: "computed layout, not a pattern to recognise; semantics R82": the identifier these fields make, with no
destination merged. PCD splits no identifier (70_reset_and_hazards.md R196). -/
def execBusId (priority : BitVec 3) (pgn18 : BitVec 18) (source : Byte) (s : State) : Outcome :=
  answer s (.ok (.id (makeId (priority.setWidth 8) (pgn18.setWidth 32) source broadcast)))

end Sys2Proof.Machine
end

