-- ==== Sys2Proof/Syntax.lean ====
section
/-! DEFINITION. The instructions: one constructor per row of spec/opcode_table.json, in the table's order. The first
nine are the wire rows (formats PROP, GFC, GFA, HDR, ID), the other forty the operations of 30_encoding.md rule R63
with the operands their rules list. -/

namespace Sys2Proof

inductive Instr where
  /-- SIMPLE_ACTION, tag 1 (R54). -/
  | simpleAction (action switch : Byte)
  /-- STATE_INFO, tag 2 (R54). -/
  | stateInfo (switch state type : Byte)
  /-- CUSTOM_HSB, tag 3 (R54). -/
  | customHsb (action switch hue sat bright : Byte)
  /-- START_PATTERN, tag 4 (R54). -/
  | startPattern (switch pattern : Byte)
  /-- OUTPUT_CHANNEL_PWM, tag 7 (R54). -/
  | outputChannelPwm (channel duty : Byte) (transitionTime : BitVec 16)
  /-- GF_COMMAND (R56); the pairs' widths are known only to the host, so their bytes stay together. -/
  | gfCommand (targetPgn : BitVec 24) (priority pairCount : Byte) (pairBytes : Bytes)
  /-- GF_ACK (R57), presented with the PGN the host expects. -/
  | gfAck (expectedPgn : Pgn) (targetPgn : BitVec 24) (paramCount entry1 : Byte)
  /-- PROP_HEADER: a header whose fields are (1512, 4) (R52). -/
  | propHeader
  /-- BUS_ID: the identifier's layout (R51). -/
  | busId (priority : BitVec 3) (pgn18 : BitVec 18) (source : Byte)
  /-- PACK_HDR, op 0x01 (R80). -/
  | packHdr (manufacturer : BitVec 16) (industry : Byte)
  /-- UNPACK_HDR, op 0x02 (R81). -/
  | unpackHdr (byte0 byte1 : Byte)
  /-- MAKE_ID, op 0x03 (R82). -/
  | makeId (priority : Byte) (pgn : Pgn) (source destination : Byte)
  /-- IS_VALID, op 0x04 (R83). -/
  | isValid (payload : Bytes)
  /-- GET_PROP_ID, op 0x05 (R84). -/
  | getPropId (payload : Bytes)
  /-- CREATE_SIMPLE_ACTION, op 0x11 (R91). -/
  | createSimpleAction (dest src action switch : Byte)
  /-- CREATE_STATE_INFO, op 0x12 (R92). -/
  | createStateInfo (dest src switch state type : Byte)
  /-- CREATE_CUSTOM_HSB, op 0x13 (R93). -/
  | createCustomHsb (dest src action switch hue sat bright : Byte)
  /-- CREATE_START_PATTERN, op 0x14 (R94). -/
  | createStartPattern (dest src switch pattern : Byte)
  /-- CREATE_OUTPUT_CHANNEL_PWM, op 0x17 (R95). -/
  | createOutputChannelPwm (dest src channel duty : Byte) (transitionTime : BitVec 16)
  /-- PARSE_PROPRIETARY, op 0x20 (R106). -/
  | parseProprietary (payload : Bytes)
  /-- PARSE_SIMPLE_ACTION, op 0x21 (R101). -/
  | parseSimpleAction (payload : Bytes)
  /-- PARSE_STATE_INFO, op 0x22 (R102). -/
  | parseStateInfo (payload : Bytes)
  /-- PARSE_CUSTOM_HSB, op 0x23 (R103). -/
  | parseCustomHsb (payload : Bytes)
  /-- PARSE_START_PATTERN, op 0x24 (R104). -/
  | parseStartPattern (payload : Bytes)
  /-- PARSE_OUTPUT_CHANNEL_PWM, op 0x27 (R105). -/
  | parseOutputChannelPwm (payload : Bytes)
  /-- GF_BUILD_CMD, op 0x31 (R110). -/
  | gfBuildCmd (targetPgn : Pgn) (prioSetting : Byte) (pairs : List (Byte × Bytes))
  /-- GF_PARSE_ACK, op 0x32 (R112). -/
  | gfParseAck (payload : Bytes) (expectedPgn : Pgn)
  /-- EXTRACT_RAW, op 0x41 (R120). -/
  | extractRaw (payload : Bytes) (startBit : BitVec 32) (bitLength : Nat)
  /-- SIGN_EXTEND, op 0x42 (R124). -/
  | signExtend (raw : BitVec 64) (bitLength : Nat) (isSigned : Bool)
  /-- EXTRACT, op 0x43 (R125). -/
  | extract (payload : Bytes) (sd : SignalDef)
  /-- CHECK_AVAILABLE, op 0x44 (R126). -/
  | checkAvailable (raw : BitVec 64) (bitLength : Nat) (isSigned : Bool)
  /-- SCALE, op 0x45 (R127). -/
  | scale (raw : BitVec 64) (sd : SignalDef)
  /-- ENUM_LOOKUP, op 0x46 (R129). -/
  | enumLookup (raw : BitVec 64) (sd : SignalDef)
  /-- DECODE_SIGNAL, op 0x47 (R130). -/
  | decodeSignal (payload : Bytes) (sd : SignalDef)
  /-- DECODE_MESSAGE, op 0x48 (R132). -/
  | decodeMessage (message : Message)
  /-- READ_U8, op 0x51 (R140). -/
  | readU8 (payload : Bytes) (cursor : Nat)
  /-- READ_U16, op 0x52 (R141). -/
  | readU16 (payload : Bytes) (cursor : Nat)
  /-- READ_U32, op 0x53 (R142). -/
  | readU32 (payload : Bytes) (cursor : Nat)
  /-- READ_VAR_STRING, op 0x54 (R143). -/
  | readVarString (payload : Bytes) (cursor : Nat)
  /-- SPLIT_BITS, op 0x55 (R144). -/
  | splitBits (byte : Byte) (lo width : Nat)
  /-- READ_REPEATED, op 0x56 (R145). -/
  | readRepeated (payload : Bytes) (cursor recSize : Nat) (fields : List SignalDef)
  /-- WRITE_U8, op 0x58 (R146). -/
  | writeU8 (payload : Bytes) (cursor : Nat) (value : Byte)
  /-- WRITE_U16, op 0x59 (R147). -/
  | writeU16 (payload : Bytes) (cursor : Nat) (value : BitVec 16)
  /-- WRITE_U24, op 0x5A (R148). -/
  | writeU24 (payload : Bytes) (cursor : Nat) (value : BitVec 32)
  /-- OBSERVE, op 0x61 (R155). -/
  | observe (message : Message) (now : Timestamp)
  /-- RECOMPUTE_CONFLICTS, op 0x62 (R160). -/
  | recomputeConflicts
  /-- CLEAR, op 0x63 (R157). -/
  | clear
  /-- HAS_CONFLICT, op 0x64 (R158). -/
  | hasConflict (source : Byte)
  /-- CONFLICTS_FOR_PGN, op 0x65 (R159). -/
  | conflictsForPgn (pgn : Pgn)
deriving DecidableEq, Repr

end Sys2Proof
end

