-- ==== Sys2Proof/Machine/Dispatch.lean ====
section
/-! DEFINITION. The meaning of every instruction: one arm per constructor, in the order of spec/opcode_table.json, each
one direct call of the meaning the instruction has of its own. -/

namespace Sys2Proof.Machine

def exec (i : Instr) (s : State) : Host.Outcome State Fault Refusal :=
  match i with
  | .simpleAction action switch => Sys2Proof.Machine.execSimpleAction action switch s
  | .stateInfo switch state type => Sys2Proof.Machine.execStateInfo switch state type s
  | .customHsb action switch hue sat bright => Sys2Proof.Machine.execCustomHsb action switch hue sat bright s
  | .startPattern switch pattern => Sys2Proof.Machine.execStartPattern switch pattern s
  | .outputChannelPwm channel duty transitionTime => Sys2Proof.Machine.execOutputChannelPwm channel duty transitionTime s
  | .gfCommand targetPgn priority pairCount pairBytes => Sys2Proof.Machine.execGfCommand targetPgn priority pairCount pairBytes s
  | .gfAck expectedPgn targetPgn paramCount entry1 => Sys2Proof.Machine.execGfAck expectedPgn targetPgn paramCount entry1 s
  | .propHeader => Sys2Proof.Machine.execPropHeader s
  | .busId priority pgn18 source => Sys2Proof.Machine.execBusId priority pgn18 source s
  | .packHdr manufacturer industry => Sys2Proof.Machine.execPackHdr manufacturer industry s
  | .unpackHdr byte0 byte1 => Sys2Proof.Machine.execUnpackHdr byte0 byte1 s
  | .makeId priority pgn source destination => Sys2Proof.Machine.execMakeId priority pgn source destination s
  | .isValid payload => Sys2Proof.Machine.execIsValid payload s
  | .getPropId payload => Sys2Proof.Machine.execGetPropId payload s
  | .createSimpleAction dest src action switch => Sys2Proof.Machine.execCreateSimpleAction dest src action switch s
  | .createStateInfo dest src switch state type => Sys2Proof.Machine.execCreateStateInfo dest src switch state type s
  | .createCustomHsb dest src action switch hue sat bright => Sys2Proof.Machine.execCreateCustomHsb dest src action switch hue sat bright s
  | .createStartPattern dest src switch pattern => Sys2Proof.Machine.execCreateStartPattern dest src switch pattern s
  | .createOutputChannelPwm dest src channel duty transitionTime => Sys2Proof.Machine.execCreateOutputChannelPwm dest src channel duty transitionTime s
  | .parseProprietary payload => Sys2Proof.Machine.execParseProprietary payload s
  | .parseSimpleAction payload => Sys2Proof.Machine.execParseSimpleAction payload s
  | .parseStateInfo payload => Sys2Proof.Machine.execParseStateInfo payload s
  | .parseCustomHsb payload => Sys2Proof.Machine.execParseCustomHsb payload s
  | .parseStartPattern payload => Sys2Proof.Machine.execParseStartPattern payload s
  | .parseOutputChannelPwm payload => Sys2Proof.Machine.execParseOutputChannelPwm payload s
  | .gfBuildCmd targetPgn prioSetting pairs => Sys2Proof.Machine.execGfBuildCmd targetPgn prioSetting pairs s
  | .gfParseAck payload expectedPgn => Sys2Proof.Machine.execGfParseAck payload expectedPgn s
  | .extractRaw payload startBit bitLength => Sys2Proof.Machine.execExtractRaw payload startBit bitLength s
  | .signExtend raw bitLength isSigned => Sys2Proof.Machine.execSignExtend raw bitLength isSigned s
  | .extract payload sd => Sys2Proof.Machine.execExtract payload sd s
  | .checkAvailable raw bitLength isSigned => Sys2Proof.Machine.execCheckAvailable raw bitLength isSigned s
  | .scale raw sd => Sys2Proof.Machine.execScale raw sd s
  | .enumLookup raw sd => Sys2Proof.Machine.execEnumLookup raw sd s
  | .decodeSignal payload sd => Sys2Proof.Machine.execDecodeSignal payload sd s
  | .decodeMessage message => Sys2Proof.Machine.execDecodeMessage message s
  | .readU8 payload cursor => Sys2Proof.Machine.execReadU8 payload cursor s
  | .readU16 payload cursor => Sys2Proof.Machine.execReadU16 payload cursor s
  | .readU32 payload cursor => Sys2Proof.Machine.execReadU32 payload cursor s
  | .readVarString payload cursor => Sys2Proof.Machine.execReadVarString payload cursor s
  | .splitBits byte lo width => Sys2Proof.Machine.execSplitBits byte lo width s
  | .readRepeated payload cursor recSize fields => Sys2Proof.Machine.execReadRepeated payload cursor recSize fields s
  | .writeU8 payload cursor value => Sys2Proof.Machine.execWriteU8 payload cursor value s
  | .writeU16 payload cursor value => Sys2Proof.Machine.execWriteU16 payload cursor value s
  | .writeU24 payload cursor value => Sys2Proof.Machine.execWriteU24 payload cursor value s
  | .observe message now => Sys2Proof.Machine.execObserve message now s
  | .recomputeConflicts => Sys2Proof.Machine.execRecomputeConflicts s
  | .clear => Sys2Proof.Machine.execClear s
  | .hasConflict source => Sys2Proof.Machine.execHasConflict source s
  | .conflictsForPgn pgn => Sys2Proof.Machine.execConflictsForPgn pgn s

end Sys2Proof.Machine
end

