-- ==== Sys2Proof/WellFormed.lean ====
section
/-! DEFINITION. Well-formed instructions: the operands are in the ranges of their declared types (00_scope.md rule
R8). One case per constructor; an operand whose Lean type already is its declared type needs no check. -/

namespace Sys2Proof

open Machine

/-- The request is within the contract of 00_scope.md R8. -/
def Instr.wf : Instr → Bool
  | .simpleAction _ _ => true
  | .stateInfo _ _ _ => true
  | .customHsb _ _ _ _ _ => true
  | .startPattern _ _ => true
  | .outputChannelPwm _ _ _ => true
  | .gfCommand _ _ _ pairBytes => pairBytesOk pairBytes
  | .gfAck _ _ _ _ => true
  | .propHeader => true
  | .busId _ _ _ => true
  | .packHdr _ _ => true
  | .unpackHdr _ _ => true
  | .makeId priority _ _ _ => priorityOk priority
  | .isValid p => payloadOk p
  | .getPropId p => payloadOk p
  | .createSimpleAction _ _ _ _ => true
  | .createStateInfo _ _ _ _ _ => true
  | .createCustomHsb _ _ _ _ _ _ _ => true
  | .createStartPattern _ _ _ _ => true
  | .createOutputChannelPwm _ _ _ _ _ => true
  | .parseProprietary p => payloadOk p
  | .parseSimpleAction p => payloadOk p
  | .parseStateInfo p => payloadOk p
  | .parseCustomHsb p => payloadOk p
  | .parseStartPattern p => payloadOk p
  | .parseOutputChannelPwm p => payloadOk p
  | .gfBuildCmd _ _ _ => true
  | .gfParseAck p _ => payloadOk p
  | .extractRaw p _ n => payloadOk p && bitLengthOk n
  | .signExtend _ n _ => bitLengthOk n
  | .extract p sd => payloadOk p && signalDefOk sd
  | .checkAvailable _ n _ => bitLengthOk n
  | .scale _ sd => signalDefOk sd
  | .enumLookup _ sd => signalDefOk sd
  | .decodeSignal p sd => payloadOk p && signalDefOk sd
  | .decodeMessage m => messageOk m
  | .readU8 p cur => cursorOk p cur
  | .readU16 p cur => cursorOk p cur
  | .readU32 p cur => cursorOk p cur
  | .readVarString p cur => cursorOk p cur
  | .splitBits _ lo width => splitOk lo width
  | .readRepeated p cur recSize fields => repeatedOk p cur recSize fields
  | .writeU8 p cur _ => cursorOk p cur
  | .writeU16 p cur _ => cursorOk p cur
  | .writeU24 p cur _ => cursorOk p cur
  | .observe m _ => messageOk m
  | .recomputeConflicts => true
  | .clear => true
  | .hasConflict _ => true
  | .conflictsForPgn _ => true

end Sys2Proof
end

