-- ==== Sys2Proof/Decode.lean ====
section
/-! DEFINITION. From a request's bytes to an instruction, and back. The wire formats are the spec's own bit layouts
(30_encoding.md rules R51 to R60); the operation select byte is rule R63's. How the operands after it are laid out in
bytes the spec does not say ("followed by the operands the operation's rule lists, each of its declared type"):
DESIGN CHOICE, log entry 3. Decoding is total on any bytes; what is no instruction is rejected by name. Bytes after
the last operand are not read (R100 says so of a payload; log entry 3 for an operation). -/

namespace Sys2Proof

open Machine

namespace Codec

/-- A reader of one operand: its value and the bytes after it. -/
abbrev Reader (α : Type) := Bytes → Except Reject (α × Bytes)

/-- An unsigned integer of n bytes, little-endian. -/
def readWord (n : Nat) : Reader Nat := fun bs =>
  if bs.length < n then .error .truncated
  else .ok (leNat (bs.take n), bs.drop n)

/-- u8. -/
def readByte : Reader Byte
  | [] => .error .truncated
  | b :: bs => .ok (b, bs)

/-- u16. -/
def read16 : Reader (BitVec 16) := fun bs =>
  (readWord 2 bs).map fun r => (BitVec.ofNat 16 r.1, r.2)

/-- u24. -/
def read24 : Reader (BitVec 24) := fun bs =>
  (readWord 3 bs).map fun r => (BitVec.ofNat 24 r.1, r.2)

/-- u32. -/
def read32 : Reader (BitVec 32) := fun bs =>
  (readWord 4 bs).map fun r => (BitVec.ofNat 32 r.1, r.2)

/-- u64 and f64. -/
def read64 : Reader (BitVec 64) := fun bs =>
  (readWord 8 bs).map fun r => (BitVec.ofNat 64 r.1, r.2)

/-- bool: one byte, 0 or 1. -/
def readBool : Reader Bool
  | [] => .error .truncated
  | b :: bs => if b = 0 then .ok (false, bs) else if b = 1 then .ok (true, bs) else .error (.badFlag b)

/-- nat: seven bits a byte, least significant first, bit 7 set on every byte but the last. -/
def readNat : Reader Nat
  | [] => .error .truncated
  | b :: bs =>
    if b.toNat < 128 then .ok (b.toNat, bs)
    else (readNat bs).map fun r => (b.toNat - 128 + 128 * r.1, r.2)

/-- T (D28): a nat, which names a value of the machine's T (log entry 13). -/
def readTimestamp : Reader Timestamp := fun bs =>
  (readNat bs).map fun r => (Config.openValues.timestamp r.1, r.2)

/-- A count in the range 1 and up: one byte, one less than the count. -/
def readCount : Reader Nat := fun bs =>
  (readByte bs).map fun r => (r.1.toNat + 1, r.2)

/-- int: a nat, 2·v for v ≥ 0 and -2·v - 1 for v < 0. -/
def readInt : Reader Int := fun bs =>
  (readNat bs).map fun r => (if r.1 % 2 = 0 then (r.1 / 2 : Nat) else -((r.1 / 2 : Nat) : Int) - 1, r.2)

/-- bytes and text: the length as a nat, then the bytes. -/
def readBytes : Reader Bytes := fun bs => do
  let (n, bs) ← readNat bs
  if bs.length < n then .error .truncated else .ok (bs.take n, bs.drop n)

/-- `n` operands of one form, one after another. -/
def readMany {α : Type} (r : Reader α) : Nat → Reader (List α)
  | 0, bs => .ok ([], bs)
  | n + 1, bs => do
    let (x, bs) ← r bs
    let (xs, bs) ← readMany r n bs
    .ok (x :: xs, bs)

/-- A sequence: the number of its entries as a nat, then the entries. -/
def readList {α : Type} (r : Reader α) : Reader (List α) := fun bs => do
  let (n, bs) ← readNat bs
  readMany r n bs

/-- One entry of an enumeration table. -/
def readEnumEntry : Reader (Int × Text) := fun bs => do
  let (k, bs) ← readInt bs
  let (t, bs) ← readBytes bs
  .ok ((k, t), bs)

/-- An optional enumeration table: a presence byte, then the table. -/
def readEnumTable : Reader (Option (List (Int × Text))) := fun bs => do
  let (present, bs) ← readBool bs
  if present then
    let (t, bs) ← readList readEnumEntry bs
    .ok (some t, bs)
  else .ok (none, bs)

/-- A SignalDef, its fields in the order of 00_scope.md R7. -/
def readSignalDef : Reader SignalDef := fun bs => do
  let (name, bs) ← readBytes bs
  let (startBit, bs) ← read32 bs
  let (bitLength, bs) ← readCount bs
  let (isSigned, bs) ← readBool bs
  let (scale, bs) ← read64 bs
  let (offset, bs) ← read64 bs
  let (minVal, bs) ← read64 bs
  let (maxVal, bs) ← read64 bs
  let (unit, bs) ← readBytes bs
  let (enumTable, bs) ← readEnumTable bs
  .ok ({ name, startBit, bitLength, isSigned, scale, offset, minVal, maxVal, unit, enumTable }, bs)

/-- A Message, its fields in the order of 00_scope.md R7. -/
def readMessage : Reader Message := fun bs => do
  let (pgn, bs) ← read32 bs
  let (priority, bs) ← readByte bs
  let (source, bs) ← readByte bs
  let (destination, bs) ← readByte bs
  let (payload, bs) ← readBytes bs
  let (cursor, bs) ← readNat bs
  .ok ({ pgn, priority, source, destination, payload, cursor }, bs)

/-- One pair of a group-function command (R110). -/
def readPair : Reader (Byte × Bytes) := fun bs => do
  let (fieldNo, bs) ← readByte bs
  let (value, bs) ← readBytes bs
  .ok ((fieldNo, value), bs)

/-- An instruction made of operands read one after another; what is left over is not read. -/
def instr0 (i : Instr) : Except Reject Instr := .ok i

def instr1 {α : Type} (a : Reader α) (mk : α → Instr) (bs : Bytes) : Except Reject Instr := do
  let (x, _) ← a bs
  .ok (mk x)

def instr2 {α β : Type} (a : Reader α) (b : Reader β) (mk : α → β → Instr) (bs : Bytes) :
    Except Reject Instr := do
  let (x, bs) ← a bs
  instr1 b (mk x) bs

def instr3 {α β γ : Type} (a : Reader α) (b : Reader β) (c : Reader γ) (mk : α → β → γ → Instr) (bs : Bytes) :
    Except Reject Instr := do
  let (x, bs) ← a bs
  instr2 b c (mk x) bs

def instr4 {α β γ δ : Type} (a : Reader α) (b : Reader β) (c : Reader γ) (d : Reader δ)
    (mk : α → β → γ → δ → Instr) (bs : Bytes) : Except Reject Instr := do
  let (x, bs) ← a bs
  instr3 b c d (mk x) bs

def instr5 {α β γ δ ε : Type} (a : Reader α) (b : Reader β) (c : Reader γ) (d : Reader δ) (e : Reader ε)
    (mk : α → β → γ → δ → ε → Instr) (bs : Bytes) : Except Reject Instr := do
  let (x, bs) ← a bs
  instr4 b c d e (mk x) bs

end Codec

open Codec

/-- The operand readers of each operation select (R63). -/
def decodeOperands (op : Byte) (bs : Bytes) : Except Reject Instr :=
  match op.toNat with
  | 0x01 => instr2 read16 readByte .packHdr bs
  | 0x02 => instr2 readByte readByte .unpackHdr bs
  | 0x03 => instr4 readByte read32 readByte readByte .makeId bs
  | 0x04 => instr1 readBytes .isValid bs
  | 0x05 => instr1 readBytes .getPropId bs
  | 0x11 => instr4 readByte readByte readByte readByte .createSimpleAction bs
  | 0x12 => instr5 readByte readByte readByte readByte readByte .createStateInfo bs
  | 0x13 => do
    let (dest, bs) ← readByte bs
    let (src, bs) ← readByte bs
    instr5 readByte readByte readByte readByte readByte (.createCustomHsb dest src) bs
  | 0x14 => instr4 readByte readByte readByte readByte .createStartPattern bs
  | 0x17 => instr5 readByte readByte readByte readByte read16 .createOutputChannelPwm bs
  | 0x20 => instr1 readBytes .parseProprietary bs
  | 0x21 => instr1 readBytes .parseSimpleAction bs
  | 0x22 => instr1 readBytes .parseStateInfo bs
  | 0x23 => instr1 readBytes .parseCustomHsb bs
  | 0x24 => instr1 readBytes .parseStartPattern bs
  | 0x27 => instr1 readBytes .parseOutputChannelPwm bs
  | 0x31 => instr3 read32 readByte (readList readPair) .gfBuildCmd bs
  | 0x32 => instr2 readBytes read32 .gfParseAck bs
  | 0x41 => instr3 readBytes read32 readCount .extractRaw bs
  | 0x42 => instr3 read64 readCount readBool .signExtend bs
  | 0x43 => instr2 readBytes readSignalDef .extract bs
  | 0x44 => instr3 read64 readCount readBool .checkAvailable bs
  | 0x45 => instr2 read64 readSignalDef .scale bs
  | 0x46 => instr2 read64 readSignalDef .enumLookup bs
  | 0x47 => instr2 readBytes readSignalDef .decodeSignal bs
  | 0x48 => instr1 readMessage .decodeMessage bs
  | 0x51 => instr2 readBytes readNat .readU8 bs
  | 0x52 => instr2 readBytes readNat .readU16 bs
  | 0x53 => instr2 readBytes readNat .readU32 bs
  | 0x54 => instr2 readBytes readNat .readVarString bs
  | 0x55 => instr3 readByte readNat readCount .splitBits bs
  | 0x56 => instr4 readBytes readNat readNat (readList readSignalDef)
      (fun p cur sizePred fields => .readRepeated p cur (sizePred + 1) fields) bs
  | 0x58 => instr3 readBytes readNat readByte .writeU8 bs
  | 0x59 => instr3 readBytes readNat read16 .writeU16 bs
  | 0x5A => instr3 readBytes readNat read32 .writeU24 bs
  | 0x61 => instr2 readMessage readTimestamp .observe bs
  | 0x62 => instr0 .recomputeConflicts
  | 0x63 => instr0 .clear
  | 0x64 => instr1 readByte .hasConflict bs
  | 0x65 => instr1 read32 .conflictsForPgn bs
  | _ => .error (.unknownOp op)

/-- Format OP: the select byte, then the operands (R63). -/
def decodeOp : Bytes → Except Reject Instr
  | [] => .error .truncated
  | op :: bs => decodeOperands op bs

/-- The mask and match of R60 on the two header bytes: the reserved bits 12:11 are left out. -/
def headerMatches (b0 b1 : Byte) : Bool :=
  ((b1 ++ b0 : BitVec 16) &&& 0xE7FF#16) == 0x85E8#16

/-- The constructor of a recognised proprietary message. -/
def propInstr : PropMessage → Instr
  | .simpleAction action switch => .simpleAction action switch
  | .stateInfo switch state type => .stateInfo switch state type
  | .customHsb action switch hue sat bright => .customHsb action switch hue sat bright
  | .startPattern switch pattern => .startPattern switch pattern
  | .outputChannelPwm channel duty transitionTime => .outputChannelPwm channel duty transitionTime

/-- Format PROP: the tests of R60 in its order, then the fields; reserved and pad bytes are not read (R61). -/
def decodeProp (cfg : Config) (p : Bytes) : Except Reject Instr :=
  if payloadOk p then
    match p with
    | b0 :: b1 :: tag :: _ =>
      if headerMatches b0 b1 then
        match tagOfCode tag with
        | none => .error (.noMatch (.unknownTag tag))
        | some t =>
          if p.length < (cfg.parseMinLen t).val then .error (.noMatch .shortForType)
          else .ok (propInstr (propFields cfg p t))
      else .error (.noMatch .wrongHeader)
    | _ => .error (.noMatch .shortPayload)
  else .error .tooLongPayload

/-- Formats GFC and GFA: byte 0 selects (R56, R57, R65). A payload shorter than its row is the reader's
ShortPayload, a function code with no row its WrongFunctionCode (R112, R113; log entry 6). -/
def decodeGroupFunction (cfg : Config) (expectedPgn : Pgn) (p : Bytes) : Except Reject Instr :=
  if payloadOk p then
    match p with
    | f :: p1 :: p2 :: p3 :: prio :: count :: rest =>
      if f = 2 then
        match rest with
        | entry1 :: _ => .ok (.gfAck expectedPgn (p3 ++ p2 ++ p1) count entry1)
        | [] => .error (.noMatch .shortPayload)
      else if f = cfg.gfFuncCommand then .ok (.gfCommand (p3 ++ p2 ++ p1) prio count rest)
      else if rest.isEmpty then .error (.noMatch .shortPayload)
      else .error (.noMatch .wrongFunctionCode)
    | _ => .error (.noMatch .shortPayload)
  else .error .tooLongPayload

/-- Format HDR: the row's mask and match over `combined` (R52, R65). -/
def decodeHeader : Bytes → Except Reject Instr
  | b0 :: b1 :: _ => if headerMatches b0 b1 then .ok .propHeader else .error (.noMatch .wrongHeader)
  | _ => .error .truncated

/-- Format ID: the u32 container, least significant byte first; bits 31:29 are 0 (R31, R51). -/
def decodeBusId : Bytes → Except Reject Instr
  | b0 :: b1 :: b2 :: b3 :: _ =>
    let id : BitVec 32 := b3 ++ b2 ++ b1 ++ b0
    if id.extractLsb' 29 3 = 0 then .ok (.busId (id.extractLsb' 26 3) (id.extractLsb' 8 18) (id.extractLsb' 0 8))
    else .error .badId
  | _ => .error .truncated

/-- The instruction a request's bytes stand for. -/
def decode (cfg : Config) (q : Request) : Except Reject Instr :=
  match q.port with
  | .op => decodeOp q.bytes
  | .prop => decodeProp cfg q.bytes
  | .groupFunction expectedPgn => decodeGroupFunction cfg expectedPgn q.bytes
  | .header => decodeHeader q.bytes
  | .busId => decodeBusId q.bytes

/-- The request whose bits are `w`, numbered as spec/opcode_table.json numbers them: the row's width tells its
format (OP, GFC and GFA rows have 8 bits, HDR 16, PROP 24, ID 32; R65). GFC and GFA share the 8-bit numbers with OP,
which is taken (log entry 4). Above the row's bits stand zeros, more than any operand of zeros takes. -/
def tableRequest (nbits w : Nat) : Request :=
  { port := if nbits = 16 then .header else if nbits = 24 then .prop else if nbits = 32 then .busId else .op
    bytes := leBytes (nbits / 8) w ++ zeroFill 64 }

/-- What the decoder reads from a row's bits. -/
def decodeTableWord (nbits w : Nat) : Option Instr :=
  (decode Config.current (tableRequest nbits w)).toOption

namespace Codec

/-- nat, the inverse of `readNat`; `fuel` bounds the digits. -/
def writeNatFuel : Nat → Nat → Bytes
  | 0, n => [BitVec.ofNat 8 n]
  | fuel + 1, n =>
    if n < 128 then [BitVec.ofNat 8 n]
    else BitVec.ofNat 8 (n % 128 + 128) :: writeNatFuel fuel (n / 128)

/-- nat. -/
def writeNat (n : Nat) : Bytes :=
  writeNatFuel n.log2 n

/-- A count in the range 1 and up. -/
def writeCount (n : Nat) : Bytes :=
  [BitVec.ofNat 8 (n - 1)]

/-- int. -/
def writeInt (v : Int) : Bytes :=
  writeNat (if 0 ≤ v then 2 * v.toNat else 2 * (-v).toNat - 1)

/-- bool. -/
def writeBool (b : Bool) : Bytes :=
  [if b then 1 else 0]

/-- bytes and text. -/
def writeBytes (p : Bytes) : Bytes :=
  writeNat p.length ++ p

/-- A sequence. -/
def writeList {α : Type} (w : α → Bytes) (xs : List α) : Bytes :=
  writeNat xs.length ++ xs.flatMap w

/-- u16, u24, u32, u64 and f64. -/
def write16 (v : BitVec 16) : Bytes := leBytes 2 v.toNat

def write24 (v : BitVec 24) : Bytes := leBytes 3 v.toNat

def write32 (v : BitVec 32) : Bytes := leBytes 4 v.toNat

def write64 (v : BitVec 64) : Bytes := leBytes 8 v.toNat

/-- One entry of an enumeration table. -/
def writeEnumEntry (e : Int × Text) : Bytes :=
  writeInt e.1 ++ writeBytes e.2

/-- An optional enumeration table. -/
def writeEnumTable : Option (List (Int × Text)) → Bytes
  | none => writeBool false
  | some t => writeBool true ++ writeList writeEnumEntry t

/-- A SignalDef. -/
def writeSignalDef (sd : SignalDef) : Bytes :=
  writeBytes sd.name ++ (write32 sd.startBit ++ (writeCount sd.bitLength ++ (writeBool sd.isSigned ++
    (write64 sd.scale ++ (write64 sd.offset ++ (write64 sd.minVal ++ (write64 sd.maxVal ++
    (writeBytes sd.unit ++ writeEnumTable sd.enumTable))))))))

/-- A Message. -/
def writeMessage (m : Message) : Bytes :=
  write32 m.pgn ++ ([m.priority, m.source, m.destination] ++ (writeBytes m.payload ++ writeNat m.cursor))

/-- One pair of a group-function command. -/
def writePair (e : Byte × Bytes) : Bytes :=
  e.1 :: writeBytes e.2

/-- An operation request. -/
def opRequest (op : Byte) (operands : Bytes) : Request :=
  { port := .op, bytes := op :: operands }

/-- A proprietary payload: the vendor header `E8 85`, the tag, the fields (R53, R54). -/
def propRequest (tag : Byte) (fields : Bytes) : Request :=
  { port := .prop, bytes := 0xE8 :: 0x85 :: tag :: fields }

end Codec

open Codec

/-- The request of a well-formed instruction: for a wire row the payload as built, byte 0 first, reserved and pad
bytes 0 (R51 to R57, R61); for an operation the select byte of R63 and the operands in its order. -/
def encode (cfg : Config) : Instr → Request
  | .simpleAction action switch => propRequest 0x01 [action, switch, 0]
  | .stateInfo switch state type => propRequest 0x02 [switch, state, type, 0]
  | .customHsb action switch hue sat bright => propRequest 0x03 [action, switch, hue, sat, bright]
  | .startPattern switch pattern => propRequest 0x04 [switch, pattern, 0]
  | .outputChannelPwm channel duty transitionTime => propRequest 0x07 ([channel, duty] ++ write16 transitionTime ++ [0])
  | .gfCommand targetPgn priority pairCount pairBytes =>
    { port := .groupFunction 0
      bytes := cfg.gfFuncCommand :: (write24 targetPgn ++ priority :: pairCount :: pairBytes) }
  | .gfAck expectedPgn targetPgn paramCount entry1 =>
    { port := .groupFunction expectedPgn, bytes := 2 :: (write24 targetPgn ++ [0, paramCount, entry1]) }
  | .propHeader => { port := .header, bytes := [0xE8, 0x85] }
  | .busId priority pgn18 source =>
    { port := .busId, bytes := write32 ((0#3 ++ priority ++ pgn18 ++ source : BitVec 32)) }
  | .packHdr manufacturer industry => opRequest 0x01 (write16 manufacturer ++ [industry])
  | .unpackHdr byte0 byte1 => opRequest 0x02 [byte0, byte1]
  | .makeId priority pgn source destination =>
    opRequest 0x03 (priority :: (write32 pgn ++ [source, destination]))
  | .isValid p => opRequest 0x04 (writeBytes p)
  | .getPropId p => opRequest 0x05 (writeBytes p)
  | .createSimpleAction dest src action switch => opRequest 0x11 [dest, src, action, switch]
  | .createStateInfo dest src switch state type => opRequest 0x12 [dest, src, switch, state, type]
  | .createCustomHsb dest src action switch hue sat bright =>
    opRequest 0x13 [dest, src, action, switch, hue, sat, bright]
  | .createStartPattern dest src switch pattern => opRequest 0x14 [dest, src, switch, pattern]
  | .createOutputChannelPwm dest src channel duty transitionTime =>
    opRequest 0x17 ([dest, src, channel, duty] ++ write16 transitionTime)
  | .parseProprietary p => opRequest 0x20 (writeBytes p)
  | .parseSimpleAction p => opRequest 0x21 (writeBytes p)
  | .parseStateInfo p => opRequest 0x22 (writeBytes p)
  | .parseCustomHsb p => opRequest 0x23 (writeBytes p)
  | .parseStartPattern p => opRequest 0x24 (writeBytes p)
  | .parseOutputChannelPwm p => opRequest 0x27 (writeBytes p)
  | .gfBuildCmd targetPgn prioSetting pairs =>
    opRequest 0x31 (write32 targetPgn ++ prioSetting :: writeList writePair pairs)
  | .gfParseAck p expectedPgn => opRequest 0x32 (writeBytes p ++ write32 expectedPgn)
  | .extractRaw p startBit n => opRequest 0x41 (writeBytes p ++ (write32 startBit ++ writeCount n))
  | .signExtend raw n isSigned => opRequest 0x42 (write64 raw ++ (writeCount n ++ writeBool isSigned))
  | .extract p sd => opRequest 0x43 (writeBytes p ++ writeSignalDef sd)
  | .checkAvailable raw n isSigned => opRequest 0x44 (write64 raw ++ (writeCount n ++ writeBool isSigned))
  | .scale raw sd => opRequest 0x45 (write64 raw ++ writeSignalDef sd)
  | .enumLookup raw sd => opRequest 0x46 (write64 raw ++ writeSignalDef sd)
  | .decodeSignal p sd => opRequest 0x47 (writeBytes p ++ writeSignalDef sd)
  | .decodeMessage m => opRequest 0x48 (writeMessage m)
  | .readU8 p cur => opRequest 0x51 (writeBytes p ++ writeNat cur)
  | .readU16 p cur => opRequest 0x52 (writeBytes p ++ writeNat cur)
  | .readU32 p cur => opRequest 0x53 (writeBytes p ++ writeNat cur)
  | .readVarString p cur => opRequest 0x54 (writeBytes p ++ writeNat cur)
  | .splitBits byte lo width => opRequest 0x55 (byte :: (writeNat lo ++ writeCount width))
  | .readRepeated p cur recSize fields =>
    opRequest 0x56 (writeBytes p ++ (writeNat cur ++ (writeNat (recSize - 1) ++ writeList writeSignalDef fields)))
  | .writeU8 p cur v => opRequest 0x58 (writeBytes p ++ (writeNat cur ++ [v]))
  | .writeU16 p cur v => opRequest 0x59 (writeBytes p ++ (writeNat cur ++ write16 v))
  | .writeU24 p cur v => opRequest 0x5A (writeBytes p ++ (writeNat cur ++ write32 v))
  | .observe m now => opRequest 0x61 (writeMessage m ++ writeNat now.val)
  | .recomputeConflicts => opRequest 0x62 []
  | .clear => opRequest 0x63 []
  | .hasConflict source => opRequest 0x64 [source]
  | .conflictsForPgn pgn => opRequest 0x65 (write32 pgn)

end Sys2Proof
end

