-- ==== Sys2Proof/Machine/Fetch.lean ====
section
/-! DEFINITION. Taking the next request. PCD fetches no instructions (10_state.md R14): the host issues requests, one
after another (00_scope.md R3, 70_reset_and_hazards.md R190), and PCD takes the oldest (log entries 1 and 2). -/

namespace Sys2Proof.Machine

/-- The oldest pending request, and the state without it. -/
def fetch (s : State) : Option (Request × State) :=
  match s.pending with
  | [] => none
  | q :: rest => some (q, s.withPending rest)

/-- What a request that is no instruction gives: a wire message no row matches is answered with the failure its reader
reports (30_encoding.md R61); anything else is refused (00_scope.md R8, 30_encoding.md R63). -/
def answerReject (r : Reject) (s : State) : Outcome :=
  match r with
  | .noMatch f => answer s (.fail f none)
  | .unknownOp op => .refused (.undecodable (.unknownOp op))
  | .truncated => .refused (.undecodable .truncated)
  | .badFlag b => .refused (.undecodable (.badFlag b))
  | .badId => .refused (.undecodable .badId)
  | .tooLongPayload => .refused (.undecodable .tooLongPayload)

/-- The state with a request put before the pending ones. -/
def putFirst (q : Request) (s : State) : State :=
  s.withPending (q :: s.pending)

end Sys2Proof.Machine
end

