-- ==== Sys2Proof/Machine/Step.lean ====
section
/-! DEFINITION. One step: PCD takes the oldest request, decodes it and executes it; with no request pending it is idle
and nothing changes (60_exceptions.md R181, log entry 2). -/

namespace Sys2Proof.Machine

/-- The step function. -/
def step (s : State) : Host.Outcome State Fault Refusal :=
  match fetch s with
  | none => .next s
  | some (q, s') =>
    match decode Config.current q with
    | .ok i => exec i s'
    | .error r => answerReject r s'

/-- The state in which the instruction of a table row's bits is the next request (log entries 2 and 4). -/
def State.withFetchWord (s : State) (nbits w : Nat) : State :=
  putFirst (tableRequest nbits w) s

end Sys2Proof.Machine
end

