-- ==== Sys2Proof/Safety.lean ====
section
/-! DEFINITION. What a safe state and a safe outcome are, in the terms claims use. -/

namespace Sys2Proof.Machine

/-- The two invariants the spec gives the state: REC has at most one binding per key, in canonical form
(10_state.md R11), and CONF = conflicts(REC) at every point between operations (10_state.md R12). -/
def State.consistent (s : State) : Bool :=
  recStoreWf s.recs && decide (s.conf = conflicts s.recs)

/-- The step gave a next state. -/
def completes : Outcome → Bool
  | .next _ => true
  | .fault _ => false
  | .refused _ => false

end Sys2Proof.Machine
end

