-- ==== Sys2Proof/Certificates/Slice0/Obligations.lean ====
section
/-! DEFINITION. The statements for the provers. Each is about the machine (`exec` of one instruction, or `step`), for
every state and every configuration. A response is the model's own state field (log entry 1): `answers s r` is the state
s with that response and EVERY other field as it was, so each result statement is a frame statement too. -/

namespace Sys2Proof.Spec

open Sys2Proof Sys2Proof.Machine

/-- The outcome in which the operation has ended with these results and nothing else of the state has changed. -/
def answers (s : State) (r : Result) : Host.Outcome State Fault Refusal :=
  .next { s with response := some (.ok r) }

/-- The outcome in which the operation has ended with this failure and nothing else of the state has changed. -/
def fails (s : State) (f : Failure) : Host.Outcome State Fault Refusal :=
  .next { s with response := some (.fail f none) }

/-- The numbers of the operation map (30_encoding.md R63). -/
def opCodes : List Nat :=
  [0x01, 0x02, 0x03, 0x04, 0x05, 0x11, 0x12, 0x13, 0x14, 0x17, 0x20, 0x21, 0x22, 0x23, 0x24, 0x27, 0x31, 0x32,
   0x41, 0x42, 0x43, 0x44, 0x45, 0x46, 0x47, 0x48, 0x51, 0x52, 0x53, 0x54, 0x55, 0x56, 0x58, 0x59, 0x5A,
   0x61, 0x62, 0x63, 0x64, 0x65]

/-- Byte k of a payload as a number. -/
def byteNat (p : Bytes) (k : Nat) : Nat := (p.getD k 0).toNat

/-- The little-endian number of the n bytes from k on. -/
def numberAt (p : Bytes) (k : Nat) : Nat → Nat
  | 0 => 0
  | n + 1 => byteNat p k + 256 * numberAt p (k + 1) n

/-- The manufacturer and the industry of the header in bytes 0 and 1, as numbers (30_encoding.md R52). -/
def manufacturerOf (p : Bytes) : Nat := numberAt p 0 2 % 2048

def industryOf (p : Bytes) : Nat := numberAt p 0 2 / 8192

/-- The header is the vendor's: manufacturer 1512, industry 4. -/
def vendor (p : Bytes) : Prop := manufacturerOf p = 1512 ∧ industryOf p = 4

/-- Payload bit k (20_memory.md R32). -/
def payloadBit (p : Bytes) (k : Nat) : Bool := byteNat p (k / 8) / 2 ^ (k % 8) % 2 == 1

/-- What a parser answers (42_parsers.md R100): the four tests in order, then the fields. -/
def ParserAnswers (i : Instr) (p : Bytes) (s : State) (tag minLen : Nat) (m : PropMessage) : Prop :=
  (p.length < 3 → exec i s = fails s .shortPayload) ∧
  (3 ≤ p.length → ¬ vendor p → exec i s = fails s .wrongHeader) ∧
  (3 ≤ p.length → vendor p → byteNat p 2 ≠ tag → exec i s = fails s .wrongTag) ∧
  (3 ≤ p.length → vendor p → byteNat p 2 = tag → p.length < minLen → exec i s = fails s .shortForType) ∧
  (3 ≤ p.length → vendor p → byteNat p 2 = tag → minLen ≤ p.length → exec i s = answers s (.parsed m))

/-- The failures an operation can report (60_exceptions.md R172). -/
def mayReport : Instr → Failure → Bool
  | .getPropId _, .shortPayload => true
  | .parseSimpleAction _, f => [.shortPayload, .wrongHeader, .wrongTag, .shortForType].contains f
  | .parseStateInfo _, f => [.shortPayload, .wrongHeader, .wrongTag, .shortForType].contains f
  | .parseCustomHsb _, f => [.shortPayload, .wrongHeader, .wrongTag, .shortForType].contains f
  | .parseStartPattern _, f => [.shortPayload, .wrongHeader, .wrongTag, .shortForType].contains f
  | .parseOutputChannelPwm _, f => [.shortPayload, .wrongHeader, .wrongTag, .shortForType].contains f
  | .parseProprietary p, f =>
    [.shortPayload, .wrongHeader, .unknownTag (p.getD 2 0), .shortForType].contains f
  | .gfBuildCmd _ _ _, f => [.tooManyPairs, .emptyValue, .tooLong].contains f
  | .gfParseAck _ _, f => [.shortPayload, .wrongFunctionCode, .wrongTargetPgn, .noParameters].contains f
  | .gfCommand _ _ _ _, f => [.shortPayload, .wrongFunctionCode].contains f
  | .gfAck _ _ _ _, f => [.wrongTargetPgn, .noParameters].contains f
  | .decodeSignal _ _, .bitRangeExceedsPayload => true
  | .decodeMessage _, f => [.noDecoder, .shortForType].contains f
  | .readU8 _ _, .pastEnd => true
  | .readU16 _ _, .pastEnd => true
  | .readU32 _ _, .pastEnd => true
  | .readVarString _ _, .pastEnd => true
  | .readRepeated _ _ _ _, .pastEnd => true
  | .writeU8 _ _ _, .pastEnd => true
  | .writeU16 _ _ _, .pastEnd => true
  | .writeU24 _ _ _, .pastEnd => true
  | _, _ => false

/-- The operations whose rules write REC or CONF (46_instance_conflict.md R155, R157, R160). -/
def writesDetector : Instr → Bool
  | .observe _ _ => true
  | .recomputeConflicts => true
  | .clear => true
  | _ => false

/-- The exponent field of a binary64 pattern. -/
def exponentOf (x : F64) : Nat := x.toNat / 2 ^ 52 % 2048

/-- The fraction field of a binary64 pattern. -/
def fractionOf (x : F64) : Nat := x.toNat % 2 ^ 52

/-- The pattern's sign bit is set. -/
def negative (x : F64) : Prop := 2 ^ 63 ≤ x.toNat

/-- A binary64 pattern is finite, an infinity or a NaN. -/
def finite (x : F64) : Prop := exponentOf x < 2047

def infinite (x : F64) : Prop := exponentOf x = 2047 ∧ fractionOf x = 0

def isNaN (x : F64) : Prop := exponentOf x = 2047 ∧ fractionOf x ≠ 0

/-- The pattern of +∞ and of -∞. -/
def plusInfinity : F64 := 0x7FF0000000000000

def minusInfinity : F64 := 0xFFF0000000000000

/-- The size of a finite binary64 number in units of 2^-1074, an integer. -/
def sizeOf64 (x : F64) : Nat :=
  if exponentOf x = 0 then fractionOf x else (2 ^ 52 + fractionOf x) * 2 ^ (exponentOf x - 1)

/-- The value of a finite binary64 number in units of 2^-1074. -/
def valueOf (x : F64) : Int :=
  if 2 ^ 63 ≤ x.toNat then -(sizeOf64 x : Int) else (sizeOf64 x : Int)

/-- x is the finite binary64 value nearest to num/den units (den > 0), an even significand deciding a tie. -/
def NearestTo (x : F64) (num : Int) (den : Nat) : Prop :=
  finite x ∧
  ∀ y : F64, finite y →
    |valueOf x * den - num| ≤ |valueOf y * den - num| ∧
    (|valueOf x * den - num| = |valueOf y * den - num| → valueOf x ≠ valueOf y → x.getLsbD 0 = false)

/-- The overflow threshold in units of 2^-1074: the largest finite value and half a unit of its last place, which is
2^1024 - 2^970. -/
def overflowUnits : Nat := (2 ^ 54 - 1) * 2 ^ 2044

/-- x is num/den units rounded to binary64, to nearest, ties to even: below the overflow threshold the nearest finite
value, at or above it the infinity of num's sign. -/
def RoundedTo (x : F64) (num : Int) (den : Nat) : Prop :=
  (|num| < overflowUnits * den → NearestTo x num den) ∧
  (overflowUnits * den ≤ |num| → x = if num < 0 then minusInfinity else plusInfinity)

/-- One observation the host makes (46_instance_conflict.md R155). -/
abbrev Observation := Message × Timestamp

/-- The states of a run of OBSERVE requests, one after another. -/
def observeAll : List Observation → State → State
  | [], s => s
  | o :: os, s =>
    match exec (.observe o.1 o.2) s with
    | .next t => observeAll os t
    | .fault _ => s
    | .refused _ => s

/-- The instance of the last observation that counts for a key: its PGN is in the allow-list and its payload reaches
the instance byte (R155). -/
def lastInstance (pgn : Pgn) (source : Byte) : List Observation → Option Byte
  | [] => none
  | o :: os =>
    match lastInstance pgn source os with
    | some i => some i
    | none =>
      if o.1.pgn = pgn ∧ o.1.source = source then
        (Config.current.instanceOffset o.1.pgn).bind (fun off => o.1.payload[off]?)
      else none

/-- (pgn, source, instance) of every record, in REC's order. -/
def observedRecords (s : State) : List (Pgn × Byte × Byte) :=
  s.recs.map fun r => (r.pgn, r.source, r.inst)

end Sys2Proof.Spec

open Sys2Proof Sys2Proof.Machine Sys2Proof.Spec

/-! ## Decoding and the step -/

/-- Words written out from the spec's encodings decode to the instructions they stand for. The operand bytes of an
operation are the model's (log entry 3). That a bare payload, header or identifier is decoded at all is the model's
choice (log entries 4, 5 and 6: the spec's PCD never parses an identifier, R61), and so is the rejection of tag 5 as a
decoding (log entry 5); the layouts are R51, R52, R54 and R57. -/
def Obligations.SpecWordsDecode : Prop :=
  let decode := decode Config.current
  decode ⟨.prop, [0xE8, 0x85, 0x01, 0x02, 0x01, 0x00]⟩ = .ok (.simpleAction 2 1) ∧
  decode ⟨.prop, [0xE8, 0x9D, 0x02, 0x03, 0x01, 0x02, 0xFF]⟩ = .ok (.stateInfo 3 1 2) ∧
  decode ⟨.prop, [0xE8, 0x85, 0x07, 0x02, 0x80, 0xE8, 0x03, 0x00]⟩ = .ok (.outputChannelPwm 2 128 1000) ∧
  decode ⟨.prop, [0xE8, 0x85, 0x05, 0x00, 0x00, 0x00]⟩ = .error (.noMatch (.unknownTag 5)) ∧
  decode ⟨.groupFunction 127508, [0x02, 0x14, 0xF2, 0x01, 0x00, 0x02, 0x00, 0x00]⟩ =
    .ok (.gfAck 127508 127508 2 0) ∧
  decode ⟨.header, [0xE8, 0x85]⟩ = .ok .propHeader ∧
  decode ⟨.busId, [0x10, 0x0E, 0xEF, 0x18]⟩ = .ok (.busId 6 0x0EF0E 0x10) ∧
  decode ⟨.op, [0x01, 0xE8, 0x05, 0x04]⟩ = .ok (.packHdr 1512 4) ∧
  decode ⟨.op, [0x24, 0x03, 0xE8, 0x85, 0x04]⟩ = .ok (.parseStartPattern [0xE8, 0x85, 0x04]) ∧
  decode ⟨.op, [0x55, 0xA5, 0x04, 0x03]⟩ = .ok (.splitBits 0xA5 4 4) ∧
  decode ⟨.op, [0x63]⟩ = .ok .clear

/-- Decoding inverts encoding, with every operand at every value the encoding admits, in every configuration whose
parsers accept the built lengths, and the machine's is one (D7); bytes after an operation's last operand are not read
(log entry 3). -/
def Obligations.DecodeInvertsEncode : Prop :=
  (∀ t : PropTag, (Config.current.parseMinLen t).val ≤ builtLength t) ∧
  ∀ (cfg : Config) (i : Instr) (rest : Bytes), (∀ t : PropTag, (cfg.parseMinLen t).val ≤ builtLength t) → i.wf = true →
    (rest = [] ∨ (encode cfg i).port = .op) →
    decode cfg ⟨(encode cfg i).port, (encode cfg i).bytes ++ rest⟩ = .ok i

/-- A step executes the oldest pending request's instruction on the state without that request. -/
def Obligations.StepRunsDecodedInstruction : Prop :=
  ∀ (s : State) (q : Request) (rest : List Request) (i : Instr),
    s.pending = q :: rest → decode Config.current q = .ok i →
    step s = exec i { s with pending := rest }

/-- With no request pending PCD is idle and loses nothing; a byte that is no op code is refused by name. -/
def Obligations.IdleStepAndUnknownOp : Prop :=
  (∀ s : State, s.pending = [] → step s = .next s) ∧
  (∀ (s : State) (op : Byte) (operands : Bytes) (rest : List Request),
    s.pending = ⟨.op, op :: operands⟩ :: rest → op.toNat ∉ opCodes →
    step s = .refused (.undecodable (.unknownOp op)))

/-- An operation request cut short is refused as truncated: every proper prefix of a well-formed instruction's bytes
(the byte form is the model's, log entry 3). -/
def Obligations.TruncatedRequestRefused : Prop :=
  ∀ (s : State) (i : Instr) (rest : List Request) (k : Nat),
    i.wf = true → (encode Config.current i).port = .op → k < (encode Config.current i).bytes.length →
    s.pending = ⟨.op, (encode Config.current i).bytes.take k⟩ :: rest →
    step s = .refused (.undecodable .truncated)

/-- The operations that take a SignalDef as their last operand: the select byte and the operands before it. -/
def Sys2Proof.Spec.BeforeSignalDef (bytes : Bytes) : Prop :=
  (∃ p : Bytes, bytes = 0x43 :: Codec.writeBytes p ∨ bytes = 0x47 :: Codec.writeBytes p) ∨
  (∃ raw : BitVec 64, bytes = 0x45 :: Codec.write64 raw ∨ bytes = 0x46 :: Codec.write64 raw) ∨
  (∃ (p : Bytes) (cur sizePred more : Nat),
    bytes = 0x56 :: (Codec.writeBytes p ++ (Codec.writeNat cur ++ (Codec.writeNat sizePred ++ Codec.writeNat (more + 1)))))

/-- A bool operand that is neither 0 nor 1 is refused by name wherever an operation has one: the signedness of
SIGN_EXTEND and CHECK_AVAILABLE, and the signedness and the table's presence in a SignalDef (the byte form is the model's,
log entry 3). -/
def Obligations.BadFlagRefused : Prop :=
  ∀ (s : State) (rest : List Request) (b : Byte) (more : Bytes), b ≠ 0 → b ≠ 1 →
    (∀ (op : Byte) (raw : BitVec 64) (n : Byte), op = 0x42 ∨ op = 0x44 →
      s.pending = ⟨.op, op :: (Codec.write64 raw ++ n :: b :: more)⟩ :: rest →
      step s = .refused (.undecodable (.badFlag b))) ∧
    (∀ (before : Bytes) (name : Text) (start : BitVec 32) (n : Byte), BeforeSignalDef before →
      s.pending = ⟨.op, before ++ (Codec.writeBytes name ++ (Codec.write32 start ++ n :: b :: more))⟩ :: rest →
      step s = .refused (.undecodable (.badFlag b))) ∧
    (∀ (before : Bytes) (name unit : Text) (start : BitVec 32) (n : Byte) (signed : Bool)
      (scale offset minVal maxVal : F64), BeforeSignalDef before →
      s.pending = ⟨.op, before ++ (Codec.writeBytes name ++ (Codec.write32 start ++ n :: (Codec.writeBool signed ++
        (Codec.write64 scale ++ (Codec.write64 offset ++ (Codec.write64 minVal ++ (Codec.write64 maxVal ++
        (Codec.writeBytes unit ++ b :: more))))))))⟩ :: rest →
      step s = .refused (.undecodable (.badFlag b)))

/-- The wire ports: what is too short or too long for its port or breaks the identifier's container is refused; a header
is answered with its fields when it is the vendor's and with WrongHeader when it is not; an identifier is answered with
itself (the model's choice, log entries 4, 6 and 12). -/
def Obligations.WirePortsAnswerOrRefuse : Prop :=
  ∀ (s : State) (rest : List Request) (p : Bytes),
    let idle : State := { s with pending := rest }
    (∀ port : Port, (port = .prop ∨ ∃ expected, port = .groupFunction expected) →
      s.pending = ⟨port, p⟩ :: rest → 223 < p.length → step s = .refused (.undecodable .tooLongPayload)) ∧
    (s.pending = ⟨.header, p⟩ :: rest →
      (p.length < 2 → step s = .refused (.undecodable .truncated)) ∧
      (2 ≤ p.length → vendor p → step s = answers idle (.headerFields 1512 4)) ∧
      (2 ≤ p.length → ¬ vendor p → step s = fails idle .wrongHeader)) ∧
    (s.pending = ⟨.busId, p⟩ :: rest →
      (p.length < 4 → step s = .refused (.undecodable .truncated)) ∧
      (4 ≤ p.length → 2 ^ 29 ≤ numberAt p 0 4 → step s = .refused (.undecodable .badId)) ∧
      (4 ≤ p.length → numberAt p 0 4 < 2 ^ 29 → step s = answers idle (.id (BitVec.ofNat 32 (numberAt p 0 4)))))

/-- A proprietary payload presented on its own port is answered exactly as PARSE_PROPRIETARY answers it: the match and
mask table of R60 and the pseudocode of R106 are the same function of every payload. -/
def Obligations.PropPortRefinesParseProprietary : Prop :=
  ∀ (s : State) (p : Bytes) (rest : List Request),
    s.pending = ⟨.prop, p⟩ :: rest → p.length ≤ 223 →
    step s = exec (.parseProprietary p) { s with pending := rest }

/-- A group-function payload presented on its own port is answered exactly as GF_PARSE_ACK answers it with the PGN the
host expects (the model's choice, log entry 6). -/
def Obligations.GroupFunctionPortRefinesParseAck : Prop :=
  ∀ (s : State) (p : Bytes) (expected : Pgn) (rest : List Request),
    s.pending = ⟨.groupFunction expected, p⟩ :: rest → p.length ≤ 223 →
    step s = exec (.gfParseAck p expected) { s with pending := rest }

/-! ## The whole machine -/

/-- Every well-formed request is answered in one step and leaves the other requests alone; every other one is refused
(R8, decision D11, log entry 12). No instruction faults. -/
def Obligations.EveryRequestAnsweredOrOutOfContract : Prop :=
  ∀ (i : Instr) (s : State),
    (i.wf = true → ∃ t r, exec i s = .next t ∧ t.response = some r ∧ t.pending = s.pending) ∧
    (i.wf = false → exec i s = .refused .outOfContract)

/-- Only OBSERVE, RECOMPUTE_CONFLICTS and CLEAR touch the detector's state; every other operation changes the response
alone. -/
def Obligations.OnlyDetectorOperationsTouchState : Prop :=
  ∀ (i : Instr) (s t : State), exec i s = .next t → writesDetector i = false →
    ∃ r, t = { s with response := some r }

/-- A failure changes no state: REC, CONF and the pending requests keep the values they had. -/
def Obligations.FailureChangesNoState : Prop :=
  ∀ (i : Instr) (s t : State) (f : Failure) (rejected : Option DecodedMessage),
    exec i s = .next t → t.response = some (.fail f rejected) →
    t = { s with response := some (.fail f rejected) }

/-- No operation reports a failure other than those R172 lists for it. -/
def Obligations.OnlyListedFailuresReported : Prop :=
  ∀ (i : Instr) (s t : State) (f : Failure) (rejected : Option DecodedMessage),
    exec i s = .next t → t.response = some (.fail f rejected) → mayReport i f = true

/-- Every step keeps the two invariants of the detector: REC in canonical form, and CONF = conflicts(REC). -/
def Obligations.StepKeepsDetectorConsistent : Prop :=
  ∀ s t : State, s.consistent = true → step s = .next t → t.consistent = true

/-- Reset leaves REC and CONF empty and the detector consistent; that nothing is pending and no response stands is the
model's choice (log entry 1). -/
def Obligations.ResetIsEmptyAndConsistent : Prop :=
  State.reset.recs = [] ∧ State.reset.conf = [] ∧ State.reset.consistent = true ∧
  State.reset.pending = [] ∧ State.reset.response = none

/-- The numbers of statuses and sub-causes: a sub-cause's high nibble is its status, two sub-causes share a number only
if they are the same sub-cause, and only UnknownTag records anything. -/
def Obligations.FailureCodesIdentifyCauses : Prop :=
  (∀ f : Failure, f.code.toNat / 16 = f.status.code.toNat) ∧
  (∀ f g : Failure, f.code = g.code → f.info = g.info → f = g) ∧
  (∀ f : Failure, ∀ b : Byte, f.info = some b ↔ f = .unknownTag b)

/-! ## Header codec -/

/-- PACK_HDR: byte0 is the low byte of the manufacturer, byte1 its next three bits and, three bits higher up, the low
three bits of the industry. -/
def Obligations.PackHdrBytes : Prop :=
  ∀ (m : BitVec 16) (i : Byte) (s : State),
    exec (.packHdr m i) s =
      answers s (.headerBytes (BitVec.ofNat 8 (m.toNat % 256))
        (BitVec.ofNat 8 (m.toNat / 256 % 8 + 32 * (i.toNat % 8))))

/-- UNPACK_HDR: the manufacturer and the industry are read back; bits 4:3 of byte1 are read by neither. -/
def Obligations.UnpackHdrFields : Prop :=
  ∀ (b0 b1 : Byte) (s : State),
    exec (.unpackHdr b0 b1) s =
      answers s (.headerFields (BitVec.ofNat 16 (b0.toNat + 256 * (b1.toNat % 8))) (BitVec.ofNat 8 (b1.toNat / 32)))

/-- Packing then unpacking gives the fields back, and unpacking then packing clears the two reserved bits only. -/
def Obligations.HeaderRoundTrips : Prop :=
  (∀ (m : BitVec 16) (i : Byte) (s : State), m.toNat < 2048 → i.toNat < 8 →
    ∃ b0 b1, exec (.packHdr m i) s = answers s (.headerBytes b0 b1) ∧
      exec (.unpackHdr b0 b1) s = answers s (.headerFields m i)) ∧
  (∀ (b0 b1 : Byte) (s : State), ∃ m i, exec (.unpackHdr b0 b1) s = answers s (.headerFields m i) ∧
    exec (.packHdr m i) s = answers s (.headerBytes b0 (b1 &&& 0xE7#8)))

/-- MAKE_ID: the 29-bit identifier's fields; a destination other than 255 is OR-ed into bits 15:8 (decision D5), and
the layout row BUS_ID is the same identifier with nothing merged (log entry 6). -/
def Obligations.MakeIdFields : Prop :=
  (∀ (priority source destination : Byte) (pgn : Pgn) (s : State), priority.toNat ≤ 7 →
    ∃ id : BitVec 32, exec (.makeId priority pgn source destination) s = answers s (.id id) ∧
      id.toNat / 2 ^ 26 = priority.toNat ∧
      id.toNat / 2 ^ 16 % 2 ^ 10 = pgn.toNat / 2 ^ 8 % 2 ^ 10 ∧
      id.toNat / 2 ^ 8 % 2 ^ 8 = (pgn.toNat % 2 ^ 8 ||| (if destination.toNat = 255 then 0 else destination.toNat)) ∧
      id.toNat % 2 ^ 8 = source.toNat) ∧
  (∀ (priority : BitVec 3) (pgn18 : BitVec 18) (source : Byte) (s : State),
    exec (.busId priority pgn18 source) s =
      answers s (.id (BitVec.ofNat 32 (priority.toNat * 2 ^ 26 + pgn18.toNat * 2 ^ 8 + source.toNat))))

/-- IS_VALID and GET_PROP_ID: the length and the two header fields decide the one, the length alone the other. -/
def Obligations.ValidityGate : Prop :=
  ∀ (p : Bytes) (s : State), p.length ≤ 223 →
    (3 ≤ p.length → vendor p → exec (.isValid p) s = answers s (.valid true)) ∧
    (3 ≤ p.length → ¬ vendor p → exec (.isValid p) s = answers s (.valid false)) ∧
    (p.length < 3 → exec (.isValid p) s = answers s (.valid false)) ∧
    (3 ≤ p.length → exec (.getPropId p) s = answers s (.tag (p.getD 2 0))) ∧
    (p.length < 3 → exec (.getPropId p) s = fails s .shortPayload)

/-! ## Builders and parsers -/

/-- The frames the builders answer with: the identifier MAKE_ID computes for the configured priority and PGN, and the
payload of R54 byte by byte, reserved and pad bytes 0. -/
def Obligations.BuildersAnswerTheLayouts : Prop :=
  ∀ (dest src : Byte) (s : State), ∃ id : BitVec 32,
    exec (.makeId Config.current.propPriorityByte Config.current.propPgn src dest) s = answers s (.id id) ∧
    (∀ action switch : Byte, exec (.createSimpleAction dest src action switch) s =
      answers s (.frame ⟨id, [0xE8, 0x85, 0x01, action, switch, 0x00]⟩)) ∧
    (∀ switch state type : Byte, exec (.createStateInfo dest src switch state type) s =
      answers s (.frame ⟨id, [0xE8, 0x85, 0x02, switch, state, type, 0x00]⟩)) ∧
    (∀ action switch hue sat bright : Byte, exec (.createCustomHsb dest src action switch hue sat bright) s =
      answers s (.frame ⟨id, [0xE8, 0x85, 0x03, action, switch, hue, sat, bright]⟩)) ∧
    (∀ switch pattern : Byte, exec (.createStartPattern dest src switch pattern) s =
      answers s (.frame ⟨id, [0xE8, 0x85, 0x04, switch, pattern, 0x00]⟩)) ∧
    (∀ (channel duty : Byte) (time : BitVec 16), exec (.createOutputChannelPwm dest src channel duty time) s =
      answers s (.frame ⟨id, [0xE8, 0x85, 0x07, channel, duty, BitVec.ofNat 8 (time.toNat % 256),
        BitVec.ofNat 8 (time.toNat / 256), 0x00]⟩))

/-- The five parsers: the gate's four tests in order, then the fields at the indices of R54, with the decided minimum
lengths; under any other PARSE_MIN_LEN the last test is on its entry (D7). -/
def Obligations.ParsersReadTheLayouts : Prop :=
  (∀ (p : Bytes) (s : State), p.length ≤ 223 →
    ParserAnswers (.parseSimpleAction p) p s 1 6 (.simpleAction (p.getD 3 0) (p.getD 4 0)) ∧
    ParserAnswers (.parseStateInfo p) p s 2 7 (.stateInfo (p.getD 3 0) (p.getD 4 0) (p.getD 5 0)) ∧
    ParserAnswers (.parseCustomHsb p) p s 3 8
      (.customHsb (p.getD 3 0) (p.getD 4 0) (p.getD 5 0) (p.getD 6 0) (p.getD 7 0)) ∧
    ParserAnswers (.parseStartPattern p) p s 4 6 (.startPattern (p.getD 3 0) (p.getD 4 0)) ∧
    ParserAnswers (.parseOutputChannelPwm p) p s 7 7
      (.outputChannelPwm (p.getD 3 0) (p.getD 4 0) (BitVec.ofNat 16 (byteNat p 5 + 256 * byteNat p 6)))) ∧
  ∀ (cfg : Config) (t : PropTag) (p : Bytes), 3 ≤ p.length → vendor p → byteNat p 2 = (tagCode t).toNat →
    (p.length < (cfg.parseMinLen t).val → parseAs cfg t p = .error .shortForType) ∧
    ((cfg.parseMinLen t).val ≤ p.length → ∃ m, parseAs cfg t p = .ok m)

/-- Build then parse: each parser recovers every non-addressing operand of its builder, and the dispatcher gives the
same message. -/
def Obligations.ParseInvertsBuild : Prop :=
  ∀ (dest src : Byte) (s : State),
    (∀ a w : Byte, ∃ f, exec (.createSimpleAction dest src a w) s = answers s (.frame f) ∧
      exec (.parseSimpleAction f.payload) s = answers s (.parsed (.simpleAction a w)) ∧
      exec (.parseProprietary f.payload) s = answers s (.parsed (.simpleAction a w))) ∧
    (∀ w st ty : Byte, ∃ f, exec (.createStateInfo dest src w st ty) s = answers s (.frame f) ∧
      exec (.parseStateInfo f.payload) s = answers s (.parsed (.stateInfo w st ty)) ∧
      exec (.parseProprietary f.payload) s = answers s (.parsed (.stateInfo w st ty))) ∧
    (∀ a w h sa b : Byte, ∃ f, exec (.createCustomHsb dest src a w h sa b) s = answers s (.frame f) ∧
      exec (.parseCustomHsb f.payload) s = answers s (.parsed (.customHsb a w h sa b)) ∧
      exec (.parseProprietary f.payload) s = answers s (.parsed (.customHsb a w h sa b))) ∧
    (∀ w pt : Byte, ∃ f, exec (.createStartPattern dest src w pt) s = answers s (.frame f) ∧
      exec (.parseStartPattern f.payload) s = answers s (.parsed (.startPattern w pt)) ∧
      exec (.parseProprietary f.payload) s = answers s (.parsed (.startPattern w pt))) ∧
    (∀ (c d : Byte) (t : BitVec 16), ∃ f, exec (.createOutputChannelPwm dest src c d t) s = answers s (.frame f) ∧
      exec (.parseOutputChannelPwm f.payload) s = answers s (.parsed (.outputChannelPwm c d t)) ∧
      exec (.parseProprietary f.payload) s = answers s (.parsed (.outputChannelPwm c d t)))

/-- PARSE_PROPRIETARY: the gate, then the parser of the tag, or UnknownTag for a tag without a layout. -/
def Obligations.ParseProprietaryDispatchesOnTag : Prop :=
  ∀ (p : Bytes) (s : State), p.length ≤ 223 →
    (p.length < 3 → exec (.parseProprietary p) s = fails s .shortPayload) ∧
    (3 ≤ p.length → ¬ vendor p → exec (.parseProprietary p) s = fails s .wrongHeader) ∧
    (3 ≤ p.length → vendor p →
      (byteNat p 2 = 1 → exec (.parseProprietary p) s = exec (.parseSimpleAction p) s) ∧
      (byteNat p 2 = 2 → exec (.parseProprietary p) s = exec (.parseStateInfo p) s) ∧
      (byteNat p 2 = 3 → exec (.parseProprietary p) s = exec (.parseCustomHsb p) s) ∧
      (byteNat p 2 = 4 → exec (.parseProprietary p) s = exec (.parseStartPattern p) s) ∧
      (byteNat p 2 = 7 → exec (.parseProprietary p) s = exec (.parseOutputChannelPwm p) s) ∧
      (byteNat p 2 ∉ [1, 2, 3, 4, 7] → exec (.parseProprietary p) s = fails s (.unknownTag (p.getD 2 0))))

/-- At most one of the five parsers accepts a payload, and the one that does answers as the dispatcher. -/
def Obligations.AtMostOneParserAccepts : Prop :=
  ∀ (p : Bytes) (s : State) (i j : Instr) (m n : PropMessage),
    let parsers := [.parseSimpleAction p, .parseStateInfo p, .parseCustomHsb p, .parseStartPattern p,
      .parseOutputChannelPwm p]
    i ∈ parsers → j ∈ parsers → exec i s = answers s (.parsed m) → exec j s = answers s (.parsed n) →
    i = j ∧ m = n ∧ exec (.parseProprietary p) s = answers s (.parsed m)

/-- The wire rows: a recognised proprietary message is answered with its fields, a vendor header with (1512, 4), an
echoed command as too short or of the wrong function code, and an acknowledge by its PGN, count and first entry (the
model's choice, log entries 5 and 6). -/
def Obligations.WireRowsAnswered : Prop :=
  ∀ s : State,
    (∀ a w : Byte, exec (.simpleAction a w) s = answers s (.parsed (.simpleAction a w))) ∧
    (∀ w st ty : Byte, exec (.stateInfo w st ty) s = answers s (.parsed (.stateInfo w st ty))) ∧
    (∀ a w h sa b : Byte, exec (.customHsb a w h sa b) s = answers s (.parsed (.customHsb a w h sa b))) ∧
    (∀ w pt : Byte, exec (.startPattern w pt) s = answers s (.parsed (.startPattern w pt))) ∧
    (∀ (c d : Byte) (t : BitVec 16),
      exec (.outputChannelPwm c d t) s = answers s (.parsed (.outputChannelPwm c d t))) ∧
    exec .propHeader s = answers s (.headerFields 1512 4) ∧
    (∀ (g : BitVec 24) (pr n : Byte), exec (.gfCommand g pr n []) s = fails s .shortPayload) ∧
    (∀ (g : BitVec 24) (pr n : Byte) (bs : Bytes), 1 ≤ bs.length → bs.length ≤ 217 →
      exec (.gfCommand g pr n bs) s = fails s .wrongFunctionCode) ∧
    (∀ (e : Pgn) (g : BitVec 24) (n e1 : Byte),
      (g.toNat ≠ e.toNat % 2 ^ 24 → exec (.gfAck e g n e1) s = fails s .wrongTargetPgn) ∧
      (g.toNat = e.toNat % 2 ^ 24 → n = 0 → exec (.gfAck e g n e1) s = fails s .noParameters) ∧
      (g.toNat = e.toNat % 2 ^ 24 → n ≠ 0 →
        exec (.gfAck e g n e1) s = answers s (.ack e1 (Config.current.gfAckSuccess e1))))

/-! ## Group function -/

/-- GF_BUILD_CMD: the three bounds in order (decision D13), then the envelope of R56. -/
def Obligations.GfBuildCmdEnvelope : Prop :=
  ∀ (g : Pgn) (pr : Byte) (pairs : List (Byte × Bytes)) (s : State),
    let total := 6 + (pairs.map (fun e => 1 + e.2.length)).sum
    (255 < pairs.length → exec (.gfBuildCmd g pr pairs) s = fails s .tooManyPairs) ∧
    (pairs.length ≤ 255 → (∃ e ∈ pairs, e.2 = []) → exec (.gfBuildCmd g pr pairs) s = fails s .emptyValue) ∧
    (pairs.length ≤ 255 → (∀ e ∈ pairs, e.2 ≠ []) → 223 < total →
      exec (.gfBuildCmd g pr pairs) s = fails s .tooLong) ∧
    (pairs.length ≤ 255 → (∀ e ∈ pairs, e.2 ≠ []) → total ≤ 223 →
      ∃ p : Bytes, exec (.gfBuildCmd g pr pairs) s = answers s (.payload p) ∧ p.length = total ∧
        p = [Config.current.gfFuncCommand, BitVec.ofNat 8 (g.toNat % 256), BitVec.ofNat 8 (g.toNat / 256 % 256),
          BitVec.ofNat 8 (g.toNat / 65536 % 256), pr, BitVec.ofNat 8 pairs.length] ++
          (pairs.map (fun e => [e.1] ++ e.2)).flatten)

/-- GF_PARSE_ACK: the four tests in order, then the first entry and whether it means success (decision D14). -/
def Obligations.GfParseAckOutcome : Prop :=
  ∀ (p : Bytes) (e : Pgn) (s : State), p.length ≤ 223 →
    (p.length < 7 → exec (.gfParseAck p e) s = fails s .shortPayload) ∧
    (7 ≤ p.length → byteNat p 0 ≠ 2 → exec (.gfParseAck p e) s = fails s .wrongFunctionCode) ∧
    (7 ≤ p.length → byteNat p 0 = 2 → numberAt p 1 3 ≠ e.toNat % 2 ^ 24 →
      exec (.gfParseAck p e) s = fails s .wrongTargetPgn) ∧
    (7 ≤ p.length → byteNat p 0 = 2 → numberAt p 1 3 = e.toNat % 2 ^ 24 → byteNat p 5 = 0 →
      exec (.gfParseAck p e) s = fails s .noParameters) ∧
    (7 ≤ p.length → byteNat p 0 = 2 → numberAt p 1 3 = e.toNat % 2 ^ 24 → byteNat p 5 ≠ 0 →
      exec (.gfParseAck p e) s = answers s (.ack (p.getD 6 0) (Config.current.gfAckSuccess (p.getD 6 0))))

/-! ## Signal decode -/

/-- EXTRACT_RAW's two paths compute the closed form of R123: raw bit i is payload bit start_bit + i, and 0 beyond the
field or beyond the payload. -/
def Obligations.ExtractRawClosedForm : Prop :=
  ∀ (p : Bytes) (start : BitVec 32) (n : Nat) (s : State), p.length ≤ 223 → 1 ≤ n → n ≤ 64 →
    ∃ raw : BitVec 64, exec (.extractRaw p start n) s = answers s (.raw raw) ∧
      ∀ i, i < 64 → raw.getLsbD i =
        (decide (i < n) && decide (start.toNat + i < 8 * p.length) && payloadBit p (start.toNat + i))

/-- SIGN_EXTEND: ones above the field when it is signed, narrower than 64 bits and its top bit is set; nothing else.
For a raw value below 2^n the result, read as a signed number, is the field's two's-complement value. -/
def Obligations.SignExtendBits : Prop :=
  ∀ (raw : BitVec 64) (n : Nat) (signed : Bool) (s : State), 1 ≤ n → n ≤ 64 →
    ∃ ext : BitVec 64, exec (.signExtend raw n signed) s = answers s (.raw ext) ∧
      (∀ i, i < 64 → ext.getLsbD i =
        (raw.getLsbD i || (signed && decide (n < 64) && decide (n ≤ i) && raw.getLsbD (n - 1)))) ∧
      (raw.toNat < 2 ^ n → signed = true →
        ext.toInt = if raw.getLsbD (n - 1) then (raw.toNat : Int) - 2 ^ n else (raw.toNat : Int))

/-- EXTRACT is SIGN_EXTEND after EXTRACT_RAW, with the field's start, width and signedness. -/
def Obligations.ExtractComposes : Prop :=
  ∀ (p : Bytes) (sd : SignalDef) (s : State), p.length ≤ 223 → signalDefOk sd = true →
    ∃ raw ext : BitVec 64,
      exec (.extractRaw p sd.startBit sd.bitLength) s = answers s (.raw raw) ∧
      exec (.signExtend raw sd.bitLength sd.isSigned) s = answers s (.raw ext) ∧
      exec (.extract p sd) s = answers s (.raw ext)

/-- EXTRACT's value is in the range of the field, wherever the field lies. -/
def Obligations.ExtractIsInRange : Prop :=
  ∀ (p : Bytes) (sd : SignalDef) (s : State), p.length ≤ 223 → signalDefOk sd = true →
    ∃ ext : BitVec 64, exec (.extract p sd) s = answers s (.raw ext) ∧
      (sd.isSigned = true → -(2 ^ (sd.bitLength - 1) : Int) ≤ ext.toInt ∧ ext.toInt < 2 ^ (sd.bitLength - 1)) ∧
      (sd.isSigned = false → ext.toNat < 2 ^ sd.bitLength)

/-- A field that fits depends on its own payload bits only: payloads that agree on them extract alike. -/
def Obligations.ExtractDependsOnFieldBitsOnly : Prop :=
  ∀ (p q : Bytes) (sd : SignalDef) (s : State), p.length ≤ 223 → q.length ≤ 223 → signalDefOk sd = true →
    sd.startBit.toNat + sd.bitLength ≤ 8 * p.length → sd.startBit.toNat + sd.bitLength ≤ 8 * q.length →
    (∀ i, i < sd.bitLength → payloadBit p (sd.startBit.toNat + i) = payloadBit q (sd.startBit.toNat + i)) →
    exec (.extract p sd) s = exec (.extract q sd) s ∧
    ∃ ext : BitVec 64, exec (.extract p sd) s = answers s (.raw ext)

/-- CHECK_AVAILABLE: an unsigned value at or above the sentinel of an 8-, 16- or 32-bit width, and a signed reading
that reaches it, is not available; every other value is. -/
def Obligations.AvailabilityThresholds : Prop :=
  ∀ (raw : BitVec 64) (n : Nat) (signed : Bool) (s : State), 1 ≤ n → n ≤ 64 →
    ∃ b : Bool, exec (.checkAvailable raw n signed) s = answers s (.available b) ∧
      (b = false ↔
        ((n = 8 ∧ 250 ≤ raw.toNat) ∨ (n = 16 ∧ 65530 ≤ raw.toNat) ∨ (n = 32 ∧ 4294967290 ≤ raw.toNat)) ∧
          (signed = false ∨ raw.toNat < 2 ^ 63))

/-- binary64 conversion, addition, subtraction and multiplication of finite numbers are correctly rounded, to nearest
with ties to even and with overflow to the infinity, and their signs are the exact results', a zero's included (D18). The
machine's F64 is this record with its own choice of NaN. -/
def Obligations.ArithmeticCorrectlyRounded : Prop :=
  Config.current.f64 = Binary64.numerics Config.openValues.nanChoice ∧
  ∀ choice : NanChoice,
    let F := Binary64.numerics choice
    (∀ v : Int, RoundedTo (F.ofInt v) (v * 2 ^ 1074) 1 ∧ (negative (F.ofInt v) ↔ v < 0)) ∧
    ∀ x y : F64, finite x → finite y →
      (RoundedTo (F.add x y) (valueOf x + valueOf y) 1 ∧
        (valueOf x + valueOf y ≠ 0 → (negative (F.add x y) ↔ valueOf x + valueOf y < 0)) ∧
        (valueOf x + valueOf y = 0 → (negative (F.add x y) ↔ negative x ∧ negative y))) ∧
      (RoundedTo (F.sub x y) (valueOf x - valueOf y) 1 ∧
        (valueOf x - valueOf y ≠ 0 → (negative (F.sub x y) ↔ valueOf x - valueOf y < 0)) ∧
        (valueOf x - valueOf y = 0 → (negative (F.sub x y) ↔ negative x ∧ ¬ negative y))) ∧
      (RoundedTo (F.mul x y) (valueOf x * valueOf y) (2 ^ 1074) ∧
        (negative (F.mul x y) ↔ ¬ (negative x ↔ negative y)))

/-- binary64 operations on infinities and NaNs: a NaN operand, infinities that cancel and an infinity times zero give a
NaN, whichever the configuration chooses (I20, log entry 8); otherwise an infinity operand gives the infinity of the
result's sign (D18). -/
def Obligations.ArithmeticOnInfinitiesAndNaNs : Prop :=
  ∀ (choice : NanChoice) (x y : F64),
    let F := Binary64.numerics choice
    ((isNaN x ∨ isNaN y) → isNaN (F.add x y) ∧ isNaN (F.sub x y) ∧ isNaN (F.mul x y)) ∧
    (infinite x → infinite y →
      (x = y → F.add x y = x ∧ isNaN (F.sub x y) ∧ F.mul x y = plusInfinity) ∧
      (x ≠ y → isNaN (F.add x y) ∧ F.sub x y = x ∧ F.mul x y = minusInfinity)) ∧
    (infinite x → finite y → F.add x y = x ∧ F.sub x y = x ∧ F.add y x = x ∧
      (negative x → F.sub y x = plusInfinity) ∧ (¬ negative x → F.sub y x = minusInfinity) ∧
      (valueOf y = 0 → isNaN (F.mul x y) ∧ isNaN (F.mul y x)) ∧
      (valueOf y ≠ 0 → F.mul x y = F.mul y x ∧
        ((negative x ↔ negative y) → F.mul x y = plusInfinity) ∧
        (¬ (negative x ↔ negative y) → F.mul x y = minusInfinity)))

/-- lt and le are the order of the values, -∞ first and +∞ last, the two zeros equal, and false on a NaN (R128, R131). -/
def Obligations.ComparisonsAreTheValueOrder : Prop :=
  ∀ (choice : NanChoice) (x y : F64),
    let F := Binary64.numerics choice
    (F.lt x y = true ↔ ¬ isNaN x ∧ ¬ isNaN y ∧
      ((x = minusInfinity ∧ y ≠ minusInfinity) ∨ (y = plusInfinity ∧ x ≠ plusInfinity) ∨
        (finite x ∧ finite y ∧ valueOf x < valueOf y))) ∧
    (F.le x y = true ↔ ¬ isNaN x ∧ ¬ isNaN y ∧
      (x = minusInfinity ∨ y = plusInfinity ∨ (finite x ∧ finite y ∧ valueOf x ≤ valueOf y)))

/-- SCALE with scale 1 and offset 0, where no temperature correction is configured: the binary64 value nearest to the
integer the field stands for. -/
def Obligations.ScaleByOneIsNearestInteger : Prop :=
  ∀ (raw : BitVec 64) (sd : SignalDef) (s : State), signalDefOk sd = true →
    exec (.scale raw sd) s = answers s (.scaled (scale Config.current raw sd)) ∧
    ∀ o : OpenConfig, o.tempFix = none → sd.scale = 0x3FF0000000000000#64 → sd.offset = 0#64 →
      NearestTo (scale (Config.ofOpen o) raw sd)
        ((if sd.isSigned then raw.toInt else (raw.toNat : Int)) * 2 ^ 1074) 1

/-- SCALE in general: one multiplication, one addition, and the temperature correction only where it is configured,
the unit is Celsius and the plain value exceeds the threshold (R127, R128; 273.15 is from general knowledge, log entry
15). The clauses hold of every configuration and every F64, the machine's own among them, whose operations the statements
on binary64 describe. -/
def Obligations.ScaleSteps : Prop :=
  ∀ (raw : BitVec 64) (sd : SignalDef) (s : State), signalDefOk sd = true →
    exec (.scale raw sd) s = answers s (.scaled (scale Config.current raw sd)) ∧
    ∀ cfg : Config,
      let F := cfg.f64
      let v := F.ofInt (if sd.isSigned then raw.toInt else (raw.toNat : Int))
      let plain := F.add (F.mul v sd.scale) sd.offset
      (cfg.tempFix = none → scale cfg raw sd = plain) ∧
      (∀ threshold isCelsius, cfg.tempFix = some (threshold, isCelsius) →
        (isCelsius sd.unit = true → F.lt threshold plain = true →
          scale cfg raw sd = F.sub (F.mul v 0x3F847AE147AE147B#64) 0x4071126666666666#64) ∧
        (isCelsius sd.unit = false ∨ F.lt threshold plain = false → scale cfg raw sd = plain))

/-- ENUM_LOOKUP: the text of the raw integer as the field's signedness reads it, if the table has it (D17). -/
def Obligations.EnumLookupIsTheTable : Prop :=
  ∀ (raw : BitVec 64) (sd : SignalDef) (s : State), signalDefOk sd = true →
    ∃ r : Option Text, exec (.enumLookup raw sd) s = answers s (.enumText r) ∧
      ∀ t : Text, r = some t ↔
        ∃ table, sd.enumTable = some table ∧
          ((if sd.isSigned then raw.toInt else (raw.toNat : Int)), t) ∈ table

/-- DECODE_SIGNAL: the range test, then the composition of EXTRACT, CHECK_AVAILABLE, SCALE and ENUM_LOOKUP, with
`valid` true unless RANGE_CHECK is on and the value is out of range (D16, D20); what le is, the statement on comparisons
says. -/
def Obligations.DecodeSignalComposes : Prop :=
  ∀ (p : Bytes) (sd : SignalDef) (s : State), p.length ≤ 223 → signalDefOk sd = true →
    (8 * p.length < sd.startBit.toNat + sd.bitLength →
      exec (.decodeSignal p sd) s = fails s .bitRangeExceedsPayload) ∧
    (sd.startBit.toNat + sd.bitLength ≤ 8 * p.length →
      ∃ (raw : BitVec 64) (avail : Bool) (x : F64) (text : Option Text),
        exec (.extract p sd) s = answers s (.raw raw) ∧
        exec (.checkAvailable raw sd.bitLength sd.isSigned) s = answers s (.available avail) ∧
        exec (.scale raw sd) s = answers s (.scaled x) ∧
        exec (.enumLookup raw sd) s = answers s (.enumText text) ∧
        exec (.decodeSignal p sd) s = answers s (.signal
          (if avail then
            { name := sd.name, unit := sd.unit
              value := match text with
                | some t => .enumerated t
                | none => .numeric x
              valid := !Config.current.rangeCheck || (Config.current.f64.le sd.minVal x && Config.current.f64.le x sd.maxVal) }
          else { name := sd.name, unit := sd.unit, value := .notAvailable, valid := false })))

/-- DECODE_SIGNAL reports "not available" exactly for an unsigned field of 8, 16 or 32 bits whose payload bits are at
or above the sentinel, whatever scale, offset and enumeration are; and then valid is false. -/
def Obligations.NotAvailableExactlyOnSentinels : Prop :=
  ∀ (p : Bytes) (sd : SignalDef) (s : State), p.length ≤ 223 → signalDefOk sd = true →
    sd.startBit.toNat + sd.bitLength ≤ 8 * p.length →
    ∃ (raw : BitVec 64) (ds : DecodedSignal),
      exec (.extractRaw p sd.startBit sd.bitLength) s = answers s (.raw raw) ∧
      exec (.decodeSignal p sd) s = answers s (.signal ds) ∧
      (ds.value = .notAvailable ↔ sd.isSigned = false ∧
        ((sd.bitLength = 8 ∧ 250 ≤ raw.toNat) ∨ (sd.bitLength = 16 ∧ 65530 ≤ raw.toNat) ∨
          (sd.bitLength = 32 ∧ 4294967290 ≤ raw.toNat))) ∧
      (ds.value = .notAvailable → ds.valid = false)

/-- DECODE_MESSAGE: rejected up front, or every signal of the schema decoded on its own, in schema order, a failed one
reported as not available (D21, D22, D24). The clauses hold of every configuration, the machine's own among them. -/
def Obligations.DecodeMessageOutcome : Prop :=
  (∀ (m : Message) (s : State), messageOk m = true →
    exec (.decodeMessage m) s = .next { s with response := some (decodeMessage Config.current m) }) ∧
  (∀ (p : Bytes) (sd : SignalDef) (s : State), p.length ≤ 223 → signalDefOk sd = true →
    exec (.decodeSignal p sd) s =
      match decodeSignal Config.current p sd with
      | .ok ds => answers s (.signal ds)
      | .error f => fails s f) ∧
  ∀ (cfg : Config) (m : Message),
    ((m.pgn ∈ cfg.ignorePgns ∨ cfg.decoder m.pgn = none) →
      decodeMessage cfg m = .fail .noDecoder (some ⟨[], [], [], false⟩)) ∧
    (m.pgn ∉ cfg.ignorePgns →
      (∀ f, cfg.decoder m.pgn = some (.special f) → decodeMessage cfg m = .ok (.message (f m.payload))) ∧
      (∀ sch, cfg.decoder m.pgn = some (.generic sch) →
        (m.payload.length < sch.minLen →
          decodeMessage cfg m = .fail .shortForType (some ⟨sch.name, sch.description, [], false⟩)) ∧
        (sch.minLen ≤ m.payload.length → ∃ sigs : List DecodedSignal,
          decodeMessage cfg m = .ok (.message ⟨sch.name, sch.description, sigs, true⟩) ∧
          sigs.length = sch.signals.length ∧
          ∀ (k : Nat) (sd : SignalDef) (ds : DecodedSignal), sch.signals[k]? = some sd → sigs[k]? = some ds →
            decodeSignal cfg m.payload sd = .ok ds ∨
            (decodeSignal cfg m.payload sd = .error .bitRangeExceedsPayload ∧
              ds = ⟨sd.name, sd.unit, .notAvailable, false⟩))))

/-! ## Cursor primitives -/

/-- READ_U8, READ_U16, READ_U32: the little-endian number at the cursor and the cursor moved by its width, or PastEnd
when fewer bytes remain (D25). -/
def Obligations.CursorReads : Prop :=
  ∀ (p : Bytes) (cur : Nat) (s : State), p.length ≤ 223 → cur ≤ p.length →
    (cur + 1 ≤ p.length → exec (.readU8 p cur) s =
      answers s (.readU8 (BitVec.ofNat 8 (numberAt p cur 1)) (cur + 1))) ∧
    (p.length < cur + 1 → exec (.readU8 p cur) s = fails s .pastEnd) ∧
    (cur + 2 ≤ p.length → exec (.readU16 p cur) s =
      answers s (.readU16 (BitVec.ofNat 16 (numberAt p cur 2)) (cur + 2))) ∧
    (p.length < cur + 2 → exec (.readU16 p cur) s = fails s .pastEnd) ∧
    (cur + 4 ≤ p.length → exec (.readU32 p cur) s =
      answers s (.readU32 (BitVec.ofNat 32 (numberAt p cur 4)) (cur + 4))) ∧
    (p.length < cur + 4 → exec (.readU32 p cur) s = fails s .pastEnd)

/-- READ_VAR_STRING: the text is bounded by the prefix, by what remains and by STR_MAX; the cursor moves past the whole
field as far as the payload goes (D26). -/
def Obligations.VarStringBounded : Prop :=
  ∀ (p : Bytes) (cur : Nat) (s : State), p.length ≤ 223 → cur ≤ p.length →
    (p.length = cur → exec (.readVarString p cur) s = fails s .pastEnd) ∧
    (cur < p.length → ∃ (t : Text) (cur' : Nat),
      exec (.readVarString p cur) s = answers s (.readText t cur') ∧
      cur' = min (cur + 1 + byteNat p cur) p.length ∧
      t.length = min (cur' - (cur + 1)) Config.current.strMax ∧
      ∀ k, k < t.length → t[k]? = p[cur + 1 + k]?)

/-- SPLIT_BITS: bit i of the result is bit lo + i of the byte, for i below the width, and it equals EXTRACT_RAW of the
one-byte payload. -/
def Obligations.SplitBitsIsExtraction : Prop :=
  ∀ (b : Byte) (lo width : Nat) (s : State), 1 ≤ width → lo + width ≤ 8 →
    ∃ v : Byte, exec (.splitBits b lo width) s = answers s (.field v) ∧
      (∀ i, i < 8 → v.getLsbD i = (decide (i < width) && b.getLsbD (lo + i))) ∧
      exec (.extractRaw [b] (BitVec.ofNat 32 lo) width) s = answers s (.raw (v.setWidth 64))

/-- READ_REPEATED: as many sub-records as are announced and fit, each signal decoded from its own sub-record and named
with INDEX_NAME, and the cursor after the last one read (D27). The clauses on the records hold of every configuration,
the machine's own among them, whose INDEX_NAME is the base, an underscore and the decimal digits of i + 1 (the decided
default, log entry 14). -/
def Obligations.ReadRepeatedRecords : Prop :=
  (∀ (base : Text) (i : Nat), Config.current.indexName base i =
    base ++ 0x5F :: ((Nat.digits 10 (i + 1)).reverse.map fun d => BitVec.ofNat 8 (48 + d))) ∧
  (∀ (p : Bytes) (cur size : Nat) (fields : List SignalDef) (s : State),
    p.length ≤ 223 → cur ≤ p.length → 1 ≤ size → (∀ sd ∈ fields, signalDefOk sd = true) →
    (p.length = cur → exec (.readRepeated p cur size fields) s = fails s .pastEnd) ∧
    (cur < p.length → ∃ (count : Byte) (records : List (List DecodedSignal)) (cur' : Nat),
      readRepeated Config.current p cur size fields = .ok (count, records, cur') ∧
      exec (.readRepeated p cur size fields) s = answers s (.records count records cur'))) ∧
  ∀ (cfg : Config) (p : Bytes) (cur size : Nat) (fields : List SignalDef), 1 ≤ size → cur < p.length →
    ∃ (records : List (List DecodedSignal)) (cur' : Nat),
      readRepeated cfg p cur size fields = .ok (p.getD cur 0, records, cur') ∧
      records.length = min (byteNat p cur) ((p.length - cur - 1) / size) ∧
      cur' = cur + 1 + records.length * size ∧
      ∀ (i : Nat) (sigs : List DecodedSignal), records[i]? = some sigs → sigs.length = fields.length ∧
        ∀ (k : Nat) (sd : SignalDef) (ds : DecodedSignal), fields[k]? = some sd → sigs[k]? = some ds →
          ds.name = cfg.indexName sd.name i ∧
          (decodeSignal cfg ((p.drop (cur + 1 + i * size)).take size) sd = .ok { ds with name := sd.name } ∨
            (decodeSignal cfg ((p.drop (cur + 1 + i * size)).take size) sd = .error .bitRangeExceedsPayload ∧
              ds = ⟨cfg.indexName sd.name i, sd.unit, .notAvailable, false⟩))

/-- The payload that a write of the number v in n bytes at the cursor leaves: the length is kept, the n bytes at the
cursor hold v little-endian, and every other byte is as it was. -/
def Sys2Proof.Spec.WrittenOver (p q : Bytes) (cur n v : Nat) : Prop :=
  q.length = p.length ∧ ∀ k, k < p.length →
    byteNat q k = if cur ≤ k ∧ k < cur + n then v / 256 ^ (k - cur) % 256 else byteNat p k

/-- WRITE_U8, WRITE_U16, WRITE_U24: the bytes at the cursor and nothing else, the cursor moved by the width, or PastEnd
and nothing written (D25). -/
def Obligations.CursorWrites : Prop :=
  ∀ (p : Bytes) (cur : Nat) (s : State), p.length ≤ 223 → cur ≤ p.length →
    (∀ v : Byte, (cur + 1 ≤ p.length → ∃ q, exec (.writeU8 p cur v) s = answers s (.written q (cur + 1)) ∧
        WrittenOver p q cur 1 v.toNat) ∧
      (p.length < cur + 1 → exec (.writeU8 p cur v) s = fails s .pastEnd)) ∧
    (∀ v : BitVec 16, (cur + 2 ≤ p.length → ∃ q, exec (.writeU16 p cur v) s = answers s (.written q (cur + 2)) ∧
        WrittenOver p q cur 2 v.toNat) ∧
      (p.length < cur + 2 → exec (.writeU16 p cur v) s = fails s .pastEnd)) ∧
    (∀ v : BitVec 32, (cur + 3 ≤ p.length → ∃ q, exec (.writeU24 p cur v) s = answers s (.written q (cur + 3)) ∧
        WrittenOver p q cur 3 v.toNat) ∧
      (p.length < cur + 3 → exec (.writeU24 p cur v) s = fails s .pastEnd))

/-- What was written is read back at the same cursor. -/
def Obligations.ReadAfterWrite : Prop :=
  ∀ (p : Bytes) (cur : Nat) (s : State), p.length ≤ 223 →
    (∀ v : Byte, cur + 1 ≤ p.length → ∃ q, exec (.writeU8 p cur v) s = answers s (.written q (cur + 1)) ∧
      exec (.readU8 q cur) s = answers s (.readU8 v (cur + 1))) ∧
    (∀ v : BitVec 16, cur + 2 ≤ p.length → ∃ q, exec (.writeU16 p cur v) s = answers s (.written q (cur + 2)) ∧
      exec (.readU16 q cur) s = answers s (.readU16 v (cur + 2))) ∧
    (∀ v : BitVec 32, cur + 3 ≤ p.length → ∃ q, exec (.writeU24 p cur v) s = answers s (.written q (cur + 3)) ∧
      exec (.readU8 q cur) s = answers s (.readU8 (BitVec.ofNat 8 v.toNat) (cur + 1)) ∧
      exec (.readU8 q (cur + 1)) s = answers s (.readU8 (BitVec.ofNat 8 (v.toNat / 256)) (cur + 2)) ∧
      exec (.readU8 q (cur + 2)) s = answers s (.readU8 (BitVec.ofNat 8 (v.toNat / 65536)) (cur + 3)))

/-! ## Instance Conflict Detector -/

/-- OBSERVE of a message that counts: the record of its key is inserted or overwritten, every other key keeps its
record, CONF is recomputed (D29), and nothing else changes; any other message changes nothing (D28). The clauses hold
of every configuration, the machine's own among them; 127508 carries its instance in byte 0 in each. -/
def Obligations.ObserveUpserts : Prop :=
  (∀ (m : Message) (now : Timestamp) (s : State), messageOk m = true →
    exec (.observe m now) s = observe Config.current m now s) ∧
  (∀ cfg : Config, cfg.instanceOffset 127508 = some 0) ∧
  ∀ (cfg : Config) (m : Message) (now : Timestamp) (s : State),
    (cfg.instanceOffset m.pgn = none → observe cfg m now s = answers s (.updated false)) ∧
    (∀ off, cfg.instanceOffset m.pgn = some off →
      off ≤ 1 ∧
      (m.payload.length ≤ off → observe cfg m now s = answers s (.updated false)) ∧
      (off < m.payload.length → ∃ recs : List InstanceRecord,
        observe cfg m now s = .next
          { s with recs := recs, conf := conflicts recs, response := some (.ok (.updated true)) } ∧
        recLookup recs m.pgn m.source = some ⟨m.pgn, m.source, m.payload.getD off 0, now⟩ ∧
        ∀ (g : Pgn) (a : Byte), (g, a) ≠ (m.pgn, m.source) → recLookup recs g a = recLookup s.recs g a))

/-- RECOMPUTE_CONFLICTS: CONF becomes the set of groups (pgn, instance) that span more than one distinct source, each
once with exactly its sources; csrc is the union of their sources; REC is unchanged. -/
def Obligations.RecomputeGroupsByInstance : Prop :=
  ∀ s : State, ∃ (conf : List InstanceConflict) (srcs : List Byte),
    exec .recomputeConflicts s = .next { s with conf := conf, response := some (.ok (.conflictReport conf srcs)) } ∧
    (∀ c ∈ conf, 1 < c.sources.length ∧ c.sources.Nodup ∧
      ∀ a, a ∈ c.sources ↔ ∃ r ∈ s.recs, r.pgn = c.pgn ∧ r.inst = c.inst ∧ r.source = a) ∧
    (∀ r ∈ s.recs, ∀ q ∈ s.recs, r.pgn = q.pgn → r.inst = q.inst → r.source ≠ q.source →
      ∃ c ∈ conf, c.pgn = r.pgn ∧ c.inst = r.inst) ∧
    conf.Pairwise (fun c d => ¬ (c.pgn = d.pgn ∧ c.inst = d.inst)) ∧
    srcs.Nodup ∧ (∀ a, a ∈ srcs ↔ ∃ c ∈ conf, a ∈ c.sources)

/-- The listed results ascend: CONF by (pgn, instance), each conflict's sources and csrc by address (D29, log entry
11). -/
def Obligations.ConflictsListedAscending : Prop :=
  ∀ s : State, ∃ (conf : List InstanceConflict) (srcs : List Byte),
    exec .recomputeConflicts s = .next { s with conf := conf, response := some (.ok (.conflictReport conf srcs)) } ∧
    conf.Pairwise (fun c d => c.pgn < d.pgn ∨ (c.pgn = d.pgn ∧ c.inst < d.inst)) ∧
    (∀ c ∈ conf, c.sources.Pairwise (· < ·)) ∧ srcs.Pairwise (· < ·)

/-- In a consistent state RECOMPUTE_CONFLICTS is a query: it changes the response alone. -/
def Obligations.RecomputeIsIdempotent : Prop :=
  ∀ s : State, s.consistent = true → ∃ srcs : List Byte,
    exec .recomputeConflicts s = answers s (.conflictReport s.conf srcs)

/-- CLEAR drops all records and conflicts, keeps the pending requests, and on reset's detector changes nothing. -/
def Obligations.ClearEmptiesDetector : Prop :=
  ∀ s : State, exec .clear s = .next { s with recs := [], conf := [], response := some (.ok .done) }

/-- HAS_CONFLICT: whether some conflict of CONF has the address among its sources, which in a consistent state is
whether csrc(REC) has it; nothing changes, and any address may be asked. -/
def Obligations.HasConflictIsMembership : Prop :=
  ∀ (a : Byte) (s : State), ∃ b : Bool, exec (.hasConflict a) s = answers s (.hasConflict b) ∧
    (b = true ↔ ∃ c ∈ s.conf, a ∈ c.sources) ∧
    (s.consistent = true → (b = true ↔ a ∈ csrc (conflicts s.recs)))

/-- CONFLICTS_FOR_PGN(g) is the conflicts of CONF with that PGN, in CONF's order (D29); HAS_CONFLICT(a) is true exactly
when some CONFLICTS_FOR_PGN(g) has a among its sources. Neither changes the detector. -/
def Obligations.ConflictQueries : Prop :=
  (∀ (g : Pgn) (s : State), ∃ cs : List InstanceConflict,
    exec (.conflictsForPgn g) s = answers s (.conflicts cs) ∧
    List.Sublist cs s.conf ∧ ∀ c, c ∈ cs ↔ c ∈ s.conf ∧ c.pgn = g) ∧
  (∀ (a : Byte) (s : State), ∃ b : Bool, exec (.hasConflict a) s = answers s (.hasConflict b) ∧
    (b = true ↔ ∃ (g : Pgn) (cs : List InstanceConflict),
      exec (.conflictsForPgn g) s = answers s (.conflicts cs) ∧ ∃ c ∈ cs, a ∈ c.sources))

/-- The source's worked example, from reset: the same PGN 127508 and instance 0 from sources 0x10 and 0x20 is one
conflict; with instance 1 in the second observation there is none, whenever they are seen. Entry 127508 ↦ 0 is in every configuration. -/
def Obligations.SourceExampleOfConflict : Prop :=
  ∀ t t' : Timestamp,
  let msg (a i : Byte) : Message := ⟨127508, 6, a, 255, [i, 0xFF], 0⟩
  let after (i : Byte) : State := observeAll [(msg 0x10 0, t), (msg 0x20 i, t')] State.reset
  (after 0).conf = [⟨127508, 0, [0x10, 0x20]⟩] ∧
  (after 0).recs = [⟨127508, 0x10, 0, t⟩, ⟨127508, 0x20, 0, t'⟩] ∧
  (after 1).conf = [] ∧ (after 1).recs = [⟨127508, 0x10, 0, t⟩, ⟨127508, 0x20, 1, t'⟩]

/-- Conflict detection does not depend on the order of the observations: two runs, from consistent states with the same
records but for last_seen, in which the last observation that counts is the same for every (pgn, source), end with the
same records, but for last_seen, and the same conflicts. -/
def Obligations.ConflictsIgnoreObservationOrder : Prop :=
  ∀ (s s' : State) (os os' : List Observation), s.consistent = true → s'.consistent = true →
    observedRecords s = observedRecords s' →
    (∀ o ∈ os, messageOk o.1 = true) → (∀ o ∈ os', messageOk o.1 = true) →
    (∀ (g : Pgn) (a : Byte), lastInstance g a os = lastInstance g a os') →
    observedRecords (observeAll os s) = observedRecords (observeAll os' s') ∧
    (observeAll os s).conf = (observeAll os' s').conf

/-- No record is ever lost but by CLEAR: every key bound before a step is bound after it. -/
def Obligations.RecordsPersistUntilClear : Prop :=
  ∀ (i : Instr) (s t : State), exec i s = .next t → i ≠ .clear →
    s.recs.length ≤ t.recs.length ∧
    ∀ (g : Pgn) (a : Byte), (recLookup s.recs g a).isSome = true → (recLookup t.recs g a).isSome = true
end

