-- ==== Sys2Proof/Laws/Bytes.lean ====
section
/-! SUPPORT. Byte order and payload access: the laws of `leNat` and `leBytes`, and what a read sees after a write. -/

namespace Sys2Proof.Machine

@[simp] theorem leBytes_length (n v : Nat) : (leBytes n v).length = n := by
  induction n generalizing v with
  | zero => rfl
  | succ n ih => simp [leBytes, ih]

/-- Reading back the n low bytes of v gives v modulo 256^n. -/
theorem leNat_leBytes (n v : Nat) : leNat (leBytes n v) = v % 256 ^ n := by
  induction n generalizing v with
  | zero => simp [leBytes, leNat, Nat.mod_one]
  | succ n ih =>
    have h : v % (256 * 256 ^ n) = v % 256 + 256 * (v / 256 % 256 ^ n) := Nat.mod_mul
    simp only [leBytes, leNat, ih, BitVec.toNat_ofNat]
    rw [show 256 ^ (n + 1) = 256 * 256 ^ n from Nat.pow_succ', h]

/-- The number of n bytes is below 256^n. -/
theorem leNat_lt (bs : Bytes) : leNat bs < 256 ^ bs.length := by
  induction bs with
  | nil => simp [leNat]
  | cons b bs ih =>
    have hb := b.isLt
    simp only [leNat, List.length_cons, Nat.pow_succ]
    omega

/-- Byte k of the n low bytes of v. -/
theorem leBytes_getElem? (n v k : Nat) (h : k < n) :
    (leBytes n v)[k]? = some (BitVec.ofNat 8 (v / 256 ^ k)) := by
  induction n generalizing v k with
  | zero => omega
  | succ n ih =>
    cases k with
    | zero => simp [leBytes]
    | succ k =>
      simp only [leBytes, List.getElem?_cons_succ]
      rw [ih _ _ (by omega), show 256 ^ (k + 1) = 256 * 256 ^ k from Nat.pow_succ', Nat.div_div_eq_div_mul]

@[simp] theorem slice_length (p : Bytes) (addr n : Nat) : (slice p addr n).length = min n (p.length - addr) := by
  simp [slice]

theorem overwrite_length (p : Bytes) (addr : Nat) (bs : Bytes) (h : addr + bs.length ≤ p.length) :
    (overwrite p addr bs).length = p.length := by
  simp only [overwrite, List.length_append, List.length_take, List.length_drop]
  omega

/-- Every byte outside the written range is as it was; the written range holds the new bytes. -/
theorem overwrite_getElem? (p : Bytes) (addr : Nat) (bs : Bytes) (h : addr + bs.length ≤ p.length) (k : Nat) :
    (overwrite p addr bs)[k]? = if addr ≤ k ∧ k < addr + bs.length then bs[k - addr]? else p[k]? := by
  simp only [overwrite, List.append_assoc, List.getElem?_append, List.length_take, List.getElem?_take,
    List.getElem?_drop]
  have hm : min addr p.length = addr := by omega
  rw [hm]
  by_cases h1 : k < addr
  · simp [h1, show ¬ addr ≤ k by omega]
  · by_cases h2 : k - addr < bs.length
    · simp [h1, h2, show addr ≤ k by omega, show k < addr + bs.length by omega]
    · rw [if_neg h1, if_neg h2, if_neg (by omega)]
      congr 1
      omega

/-- A write keeps the payload's length. -/
theorem memWrite_length (p : Bytes) (addr n v : Nat) (h : addr + n ≤ p.length) :
    (memWrite p addr n v).length = p.length :=
  overwrite_length p addr _ (by simpa using h)

/-- A read after a write of the same width at the same place gives the value written. -/
theorem memRead_memWrite (p : Bytes) (addr n v : Nat) (h : addr + n ≤ p.length) :
    memRead (memWrite p addr n v) addr n = v % 256 ^ n := by
  have hl : (p.take addr).length = addr := by simp; omega
  rw [← leNat_leBytes]
  unfold memRead memWrite slice overwrite
  rw [List.append_assoc, List.drop_left' hl, List.take_left' (leBytes_length n v)]

end Sys2Proof.Machine
end

