-- ==== Sys2Proof/Laws/Codec.lean ====
section
/-! SUPPORT. One law per operand form: reading what was written gives the operand back and leaves the bytes after it. -/

namespace Sys2Proof.Codec

open Sys2Proof.Machine

theorem readByte_cons (b : Byte) (rest : Bytes) : readByte (b :: rest) = .ok (b, rest) := rfl

theorem readWord_leBytes (n v : Nat) (rest : Bytes) :
    readWord n (leBytes n v ++ rest) = .ok (v % 256 ^ n, rest) := by
  have hl := leBytes_length n v
  unfold readWord
  rw [if_neg (by rw [List.length_append, hl]; omega), List.take_left' hl, List.drop_left' hl, leNat_leBytes]

theorem read16_write16 (v : BitVec 16) (rest : Bytes) : read16 (write16 v ++ rest) = .ok (v, rest) := by
  simp only [read16, write16, readWord_leBytes, Except.map]
  congr 2
  apply BitVec.eq_of_toNat_eq
  simpa using v.isLt

theorem read24_write24 (v : BitVec 24) (rest : Bytes) : read24 (write24 v ++ rest) = .ok (v, rest) := by
  simp only [read24, write24, readWord_leBytes, Except.map]
  congr 2
  apply BitVec.eq_of_toNat_eq
  simpa using v.isLt

theorem read32_write32 (v : BitVec 32) (rest : Bytes) : read32 (write32 v ++ rest) = .ok (v, rest) := by
  simp only [read32, write32, readWord_leBytes, Except.map]
  congr 2
  apply BitVec.eq_of_toNat_eq
  simpa using v.isLt

theorem read64_write64 (v : BitVec 64) (rest : Bytes) : read64 (write64 v ++ rest) = .ok (v, rest) := by
  simp only [read64, write64, readWord_leBytes, Except.map]
  congr 2
  apply BitVec.eq_of_toNat_eq
  simpa using v.isLt

theorem readBool_writeBool (b : Bool) (rest : Bytes) : readBool (writeBool b ++ rest) = .ok (b, rest) := by
  cases b <;> rfl

/-- The digits a fuel of `k` allows are enough below 2^(k + 1). -/
theorem readNat_writeNatFuel (k n : Nat) (h : n < 2 ^ (k + 1)) (h' : k = 0 → n < 128) (rest : Bytes) :
    readNat (writeNatFuel k n ++ rest) = .ok (n, rest) := by
  induction k generalizing n with
  | zero =>
    have hn := h' rfl
    have hb : (BitVec.ofNat 8 n).toNat = n := by simp; omega
    simp only [writeNatFuel, List.cons_append, List.nil_append, readNat, hb, if_pos hn]
  | succ k ih =>
    unfold writeNatFuel
    split
    · next hn =>
      have hb : (BitVec.ofNat 8 n).toNat = n := by simp; omega
      simp only [List.cons_append, List.nil_append, readNat, hb, if_pos hn]
    · next hn =>
      have hb : (BitVec.ofNat 8 (n % 128 + 128)).toNat = n % 128 + 128 := by simp; omega
      have hp : 2 ^ (k + 1 + 1) = 2 * 2 ^ (k + 1) := Nat.pow_succ'
      have hd : n / 128 < 2 ^ (k + 1) := by omega
      rw [List.cons_append]
      unfold readNat
      rw [hb, if_neg (by omega), ih _ hd (by intro hk; subst hk; omega)]
      simp only [Except.map, Except.ok.injEq, Prod.mk.injEq, and_true]
      omega

theorem readNat_writeNat (n : Nat) (rest : Bytes) : readNat (writeNat n ++ rest) = .ok (n, rest) := by
  refine readNat_writeNatFuel _ _ Nat.lt_log2_self ?_ rest
  intro h
  have := @Nat.lt_log2_self n
  rw [h] at this
  omega

@[simp] theorem timestamp_val (o : OpenConfig) (t : o.T) : o.timestamp t.val = t :=
  Subtype.ext t.property

/-- 0 is a value of every T. -/
@[simp] theorem timestamp_zero_val (o : OpenConfig) : (o.timestamp 0).val = 0 := rfl

/-- A natural that is a value of T names it. -/
theorem timestamp_val_of_more (o : OpenConfig) {n : Nat} (h : o.timestampMore n = true) :
    (o.timestamp n).val = n := by
  simp only [OpenConfig.timestamp, OpenConfig.timestampCode, h, and_true]
  split <;> simp_all

theorem readTimestamp_writeNat (t : Timestamp) (rest : Bytes) :
    readTimestamp (writeNat t.val ++ rest) = .ok (t, rest) := by
  simp [readTimestamp, readNat_writeNat, Except.map]

theorem readCount_writeCount (n : Nat) (h : 1 ≤ n) (h' : n ≤ 256) (rest : Bytes) :
    readCount (writeCount n ++ rest) = .ok (n, rest) := by
  simp only [readCount, writeCount, List.cons_append, List.nil_append, readByte, Except.map, BitVec.toNat_ofNat]
  congr 2
  omega

theorem readInt_writeInt (v : Int) (rest : Bytes) : readInt (writeInt v ++ rest) = .ok (v, rest) := by
  simp only [readInt, writeInt, readNat_writeNat, Except.map]
  congr 2
  split <;> split <;> omega

theorem readBytes_writeBytes (p rest : Bytes) : readBytes (writeBytes p ++ rest) = .ok (p, rest) := by
  simp [readBytes, writeBytes, List.append_assoc, readNat_writeNat, bind, Except.bind]

theorem readMany_flatMap {α : Type} (r : Reader α) (w : α → Bytes) (xs : List α) (rest : Bytes)
    (h : ∀ x ∈ xs, ∀ rest, r (w x ++ rest) = .ok (x, rest)) :
    readMany r xs.length (xs.flatMap w ++ rest) = .ok (xs, rest) := by
  induction xs with
  | nil => rfl
  | cons x xs ih =>
    simp only [List.length_cons, readMany, List.flatMap_cons, List.append_assoc]
    rw [h x (by simp)]
    simp only [bind, Except.bind]
    rw [ih (fun y hy => h y (by simp [hy]))]

theorem readList_writeList {α : Type} (r : Reader α) (w : α → Bytes) (xs : List α) (rest : Bytes)
    (h : ∀ x ∈ xs, ∀ rest, r (w x ++ rest) = .ok (x, rest)) :
    readList r (writeList w xs ++ rest) = .ok (xs, rest) := by
  simp only [readList, writeList, List.append_assoc, readNat_writeNat, bind, Except.bind]
  exact readMany_flatMap r w xs rest h

theorem readEnumEntry_writeEnumEntry (e : Int × Text) (rest : Bytes) :
    readEnumEntry (writeEnumEntry e ++ rest) = .ok (e, rest) := by
  simp only [readEnumEntry, writeEnumEntry, List.append_assoc, readInt_writeInt, readBytes_writeBytes, bind,
    Except.bind]

theorem readEnumTable_writeEnumTable (t : Option (List (Int × Text))) (rest : Bytes) :
    readEnumTable (writeEnumTable t ++ rest) = .ok (t, rest) := by
  cases t with
  | none => simp only [readEnumTable, writeEnumTable, readBool_writeBool, bind, Except.bind]; rfl
  | some t =>
    simp only [readEnumTable, writeEnumTable, List.append_assoc, readBool_writeBool, bind, Except.bind,
      if_true]
    rw [readList_writeList _ _ _ _ (fun e _ rest => readEnumEntry_writeEnumEntry e rest)]

theorem readSignalDef_writeSignalDef (sd : SignalDef) (h : signalDefOk sd = true) (rest : Bytes) :
    readSignalDef (writeSignalDef sd ++ rest) = .ok (sd, rest) := by
  have hb : 1 ≤ sd.bitLength ∧ sd.bitLength ≤ 64 := by
    simp [signalDefOk, bitLengthOk] at h; exact h.1
  simp only [readSignalDef, writeSignalDef, List.append_assoc, readBytes_writeBytes, read32_write32,
    readCount_writeCount _ hb.1 (by omega), readBool_writeBool, read64_write64, readEnumTable_writeEnumTable,
    bind, Except.bind]

theorem readMessage_writeMessage (m : Message) (rest : Bytes) :
    readMessage (writeMessage m ++ rest) = .ok (m, rest) := by
  simp only [readMessage, writeMessage, List.append_assoc, read32_write32, List.cons_append, List.nil_append,
    readByte_cons, readBytes_writeBytes, readNat_writeNat, bind, Except.bind]

theorem readPair_writePair (e : Byte × Bytes) (rest : Bytes) :
    readPair (writePair e ++ rest) = .ok (e, rest) := by
  simp only [readPair, writePair, List.cons_append, readByte_cons, readBytes_writeBytes, bind, Except.bind]

end Sys2Proof.Codec
end

