-- ==== Sys2Proof/Laws/PerInstr.lean ====
section
/-! SUPPORT. A family of lemmas, one per instruction, about its encoding: the encoded bytes match the instruction's row of
spec/opcode_table.json, mask and match over the row's own number (30_encoding.md rule R65). -/

namespace Sys2Proof.Laws.RowMatch

open Sys2Proof.Machine

/-- The row: how many bytes it is matched over, its mask and its match. GF_COMMAND's match is the configured function
code; BUS_ID has no pattern but bits 31:29, which are 0 (R51). -/
def row (cfg : Config) : Instr → Nat × Nat × Nat
  | .simpleAction _ _ => (3, 0xFFE7FF, 0x0185E8)
  | .stateInfo _ _ _ => (3, 0xFFE7FF, 0x0285E8)
  | .customHsb _ _ _ _ _ => (3, 0xFFE7FF, 0x0385E8)
  | .startPattern _ _ => (3, 0xFFE7FF, 0x0485E8)
  | .outputChannelPwm _ _ _ => (3, 0xFFE7FF, 0x0785E8)
  | .gfCommand _ _ _ _ => (1, 0xFF, cfg.gfFuncCommand.toNat)
  | .gfAck _ _ _ _ => (1, 0xFF, 0x02)
  | .propHeader => (2, 0xE7FF, 0x85E8)
  | .busId _ _ _ => (4, 0xE0000000, 0)
  | .packHdr _ _ => (1, 0xFF, 0x01)
  | .unpackHdr _ _ => (1, 0xFF, 0x02)
  | .makeId _ _ _ _ => (1, 0xFF, 0x03)
  | .isValid _ => (1, 0xFF, 0x04)
  | .getPropId _ => (1, 0xFF, 0x05)
  | .createSimpleAction _ _ _ _ => (1, 0xFF, 0x11)
  | .createStateInfo _ _ _ _ _ => (1, 0xFF, 0x12)
  | .createCustomHsb _ _ _ _ _ _ _ => (1, 0xFF, 0x13)
  | .createStartPattern _ _ _ _ => (1, 0xFF, 0x14)
  | .createOutputChannelPwm _ _ _ _ _ => (1, 0xFF, 0x17)
  | .parseProprietary _ => (1, 0xFF, 0x20)
  | .parseSimpleAction _ => (1, 0xFF, 0x21)
  | .parseStateInfo _ => (1, 0xFF, 0x22)
  | .parseCustomHsb _ => (1, 0xFF, 0x23)
  | .parseStartPattern _ => (1, 0xFF, 0x24)
  | .parseOutputChannelPwm _ => (1, 0xFF, 0x27)
  | .gfBuildCmd _ _ _ => (1, 0xFF, 0x31)
  | .gfParseAck _ _ => (1, 0xFF, 0x32)
  | .extractRaw _ _ _ => (1, 0xFF, 0x41)
  | .signExtend _ _ _ => (1, 0xFF, 0x42)
  | .extract _ _ => (1, 0xFF, 0x43)
  | .checkAvailable _ _ _ => (1, 0xFF, 0x44)
  | .scale _ _ => (1, 0xFF, 0x45)
  | .enumLookup _ _ => (1, 0xFF, 0x46)
  | .decodeSignal _ _ => (1, 0xFF, 0x47)
  | .decodeMessage _ => (1, 0xFF, 0x48)
  | .readU8 _ _ => (1, 0xFF, 0x51)
  | .readU16 _ _ => (1, 0xFF, 0x52)
  | .readU32 _ _ => (1, 0xFF, 0x53)
  | .readVarString _ _ => (1, 0xFF, 0x54)
  | .splitBits _ _ _ => (1, 0xFF, 0x55)
  | .readRepeated _ _ _ _ => (1, 0xFF, 0x56)
  | .writeU8 _ _ _ => (1, 0xFF, 0x58)
  | .writeU16 _ _ _ => (1, 0xFF, 0x59)
  | .writeU24 _ _ _ => (1, 0xFF, 0x5A)
  | .observe _ _ => (1, 0xFF, 0x61)
  | .recomputeConflicts => (1, 0xFF, 0x62)
  | .clear => (1, 0xFF, 0x63)
  | .hasConflict _ => (1, 0xFF, 0x64)
  | .conflictsForPgn _ => (1, 0xFF, 0x65)

/-- The encoding of the instruction matches its row. -/
def Statement (i : Instr) : Prop :=
  ∀ cfg : Config,
    leNat ((encode cfg i).bytes.take (row cfg i).1) &&& (row cfg i).2.1 = (row cfg i).2.2

theorem simpleAction : ∀ action switch, Statement (.simpleAction action switch) := by
  unfold Statement
  simp [encode, row, leNat, Codec.propRequest]

theorem stateInfo : ∀ switch state type, Statement (.stateInfo switch state type) := by
  unfold Statement
  simp [encode, row, leNat, Codec.propRequest]

theorem customHsb : ∀ action switch hue sat bright, Statement (.customHsb action switch hue sat bright) := by
  unfold Statement
  simp [encode, row, leNat, Codec.propRequest]

theorem startPattern : ∀ switch pattern, Statement (.startPattern switch pattern) := by
  unfold Statement
  simp [encode, row, leNat, Codec.propRequest]

theorem outputChannelPwm : ∀ channel duty transitionTime, Statement (.outputChannelPwm channel duty transitionTime) := by
  unfold Statement
  simp [encode, row, leNat, Codec.propRequest]

theorem gfCommand : ∀ targetPgn priority pairCount pairBytes, Statement (.gfCommand targetPgn priority pairCount pairBytes) := by
  intro _ _ _ _ cfg
  have h := cfg.gfFuncCommand.isLt
  show (cfg.gfFuncCommand.toNat + 256 * 0) &&& 0xFF = cfg.gfFuncCommand.toNat
  rw [show (0xFF : Nat) = 2 ^ 8 - 1 from rfl, Nat.and_two_pow_sub_one_eq_mod]
  omega

theorem gfAck : ∀ expectedPgn targetPgn paramCount entry1, Statement (.gfAck expectedPgn targetPgn paramCount entry1) := by
  unfold Statement
  simp [encode, row, leNat]

theorem propHeader : Statement .propHeader := by
  unfold Statement
  simp [encode, row, leNat]

theorem busId : ∀ priority pgn18 source, Statement (.busId priority pgn18 source) := by
  intro priority pgn18 source cfg
  have h : (0#3 ++ priority ++ pgn18 ++ source : BitVec 32).toNat < 2 ^ 29 := by
    have h1 := priority.isLt
    have h2 := pgn18.isLt
    have h3 := source.isLt
    simp only [BitVec.toNat_append, BitVec.toNat_ofNat, Nat.zero_mod, Nat.zero_shiftLeft, Nat.zero_or]
    rw [← Nat.shiftLeft_add_eq_or_of_lt h2, ← Nat.shiftLeft_add_eq_or_of_lt h3, Nat.shiftLeft_eq, Nat.shiftLeft_eq]
    omega
  show leNat ((leBytes 4 _).take 4) &&& 0xE0000000 = 0
  rw [List.take_of_length_le (by simp), leNat_leBytes]
  generalize (0#3 ++ priority ++ pgn18 ++ source : BitVec 32).toNat = n at h
  apply Nat.eq_of_testBit_eq
  intro k
  rw [Nat.testBit_and, Nat.mod_eq_of_lt (by omega), Nat.zero_testBit]
  by_cases hk : k < 29
  · have : Nat.testBit 0xE0000000 k = false := by interval_cases k <;> rfl
    rw [this, Bool.and_false]
  · rw [Nat.testBit_lt_two_pow (lt_of_lt_of_le h (Nat.pow_le_pow_right (by omega) (by omega))), Bool.false_and]

theorem packHdr : ∀ manufacturer industry, Statement (.packHdr manufacturer industry) := by
  unfold Statement
  simp [encode, row, leNat, Codec.opRequest]

theorem unpackHdr : ∀ byte0 byte1, Statement (.unpackHdr byte0 byte1) := by
  unfold Statement
  simp [encode, row, leNat, Codec.opRequest]

theorem makeId : ∀ priority pgn source destination, Statement (.makeId priority pgn source destination) := by
  unfold Statement
  simp [encode, row, leNat, Codec.opRequest]

theorem isValid : ∀ payload, Statement (.isValid payload) := by
  unfold Statement
  simp [encode, row, leNat, Codec.opRequest]

theorem getPropId : ∀ payload, Statement (.getPropId payload) := by
  unfold Statement
  simp [encode, row, leNat, Codec.opRequest]

theorem createSimpleAction : ∀ dest src action switch, Statement (.createSimpleAction dest src action switch) := by
  unfold Statement
  simp [encode, row, leNat, Codec.opRequest]

theorem createStateInfo : ∀ dest src switch state type, Statement (.createStateInfo dest src switch state type) := by
  unfold Statement
  simp [encode, row, leNat, Codec.opRequest]

theorem createCustomHsb : ∀ dest src action switch hue sat bright, Statement (.createCustomHsb dest src action switch hue sat bright) := by
  unfold Statement
  simp [encode, row, leNat, Codec.opRequest]

theorem createStartPattern : ∀ dest src switch pattern, Statement (.createStartPattern dest src switch pattern) := by
  unfold Statement
  simp [encode, row, leNat, Codec.opRequest]

theorem createOutputChannelPwm : ∀ dest src channel duty transitionTime, Statement (.createOutputChannelPwm dest src channel duty transitionTime) := by
  unfold Statement
  simp [encode, row, leNat, Codec.opRequest]

theorem parseProprietary : ∀ payload, Statement (.parseProprietary payload) := by
  unfold Statement
  simp [encode, row, leNat, Codec.opRequest]

theorem parseSimpleAction : ∀ payload, Statement (.parseSimpleAction payload) := by
  unfold Statement
  simp [encode, row, leNat, Codec.opRequest]

theorem parseStateInfo : ∀ payload, Statement (.parseStateInfo payload) := by
  unfold Statement
  simp [encode, row, leNat, Codec.opRequest]

theorem parseCustomHsb : ∀ payload, Statement (.parseCustomHsb payload) := by
  unfold Statement
  simp [encode, row, leNat, Codec.opRequest]

theorem parseStartPattern : ∀ payload, Statement (.parseStartPattern payload) := by
  unfold Statement
  simp [encode, row, leNat, Codec.opRequest]

theorem parseOutputChannelPwm : ∀ payload, Statement (.parseOutputChannelPwm payload) := by
  unfold Statement
  simp [encode, row, leNat, Codec.opRequest]

theorem gfBuildCmd : ∀ targetPgn prioSetting pairs, Statement (.gfBuildCmd targetPgn prioSetting pairs) := by
  unfold Statement
  simp [encode, row, leNat, Codec.opRequest]

theorem gfParseAck : ∀ payload expectedPgn, Statement (.gfParseAck payload expectedPgn) := by
  unfold Statement
  simp [encode, row, leNat, Codec.opRequest]

theorem extractRaw : ∀ payload startBit bitLength, Statement (.extractRaw payload startBit bitLength) := by
  unfold Statement
  simp [encode, row, leNat, Codec.opRequest]

theorem signExtend : ∀ raw bitLength isSigned, Statement (.signExtend raw bitLength isSigned) := by
  unfold Statement
  simp [encode, row, leNat, Codec.opRequest]

theorem extract : ∀ payload sd, Statement (.extract payload sd) := by
  unfold Statement
  simp [encode, row, leNat, Codec.opRequest]

theorem checkAvailable : ∀ raw bitLength isSigned, Statement (.checkAvailable raw bitLength isSigned) := by
  unfold Statement
  simp [encode, row, leNat, Codec.opRequest]

theorem scale : ∀ raw sd, Statement (.scale raw sd) := by
  unfold Statement
  simp [encode, row, leNat, Codec.opRequest]

theorem enumLookup : ∀ raw sd, Statement (.enumLookup raw sd) := by
  unfold Statement
  simp [encode, row, leNat, Codec.opRequest]

theorem decodeSignal : ∀ payload sd, Statement (.decodeSignal payload sd) := by
  unfold Statement
  simp [encode, row, leNat, Codec.opRequest]

theorem decodeMessage : ∀ message, Statement (.decodeMessage message) := by
  unfold Statement
  simp [encode, row, leNat, Codec.opRequest]

theorem readU8 : ∀ payload cursor, Statement (.readU8 payload cursor) := by
  unfold Statement
  simp [encode, row, leNat, Codec.opRequest]

theorem readU16 : ∀ payload cursor, Statement (.readU16 payload cursor) := by
  unfold Statement
  simp [encode, row, leNat, Codec.opRequest]

theorem readU32 : ∀ payload cursor, Statement (.readU32 payload cursor) := by
  unfold Statement
  simp [encode, row, leNat, Codec.opRequest]

theorem readVarString : ∀ payload cursor, Statement (.readVarString payload cursor) := by
  unfold Statement
  simp [encode, row, leNat, Codec.opRequest]

theorem splitBits : ∀ byte lo width, Statement (.splitBits byte lo width) := by
  unfold Statement
  simp [encode, row, leNat, Codec.opRequest]

theorem readRepeated : ∀ payload cursor recSize fields, Statement (.readRepeated payload cursor recSize fields) := by
  unfold Statement
  simp [encode, row, leNat, Codec.opRequest]

theorem writeU8 : ∀ payload cursor value, Statement (.writeU8 payload cursor value) := by
  unfold Statement
  simp [encode, row, leNat, Codec.opRequest]

theorem writeU16 : ∀ payload cursor value, Statement (.writeU16 payload cursor value) := by
  unfold Statement
  simp [encode, row, leNat, Codec.opRequest]

theorem writeU24 : ∀ payload cursor value, Statement (.writeU24 payload cursor value) := by
  unfold Statement
  simp [encode, row, leNat, Codec.opRequest]

theorem observe : ∀ message now, Statement (.observe message now) := by
  unfold Statement
  simp [encode, row, leNat, Codec.opRequest]

theorem recomputeConflicts : Statement .recomputeConflicts := by
  unfold Statement
  simp [encode, row, leNat, Codec.opRequest]

theorem clear : Statement .clear := by
  unfold Statement
  simp [encode, row, leNat, Codec.opRequest]

theorem hasConflict : ∀ source, Statement (.hasConflict source) := by
  unfold Statement
  simp [encode, row, leNat, Codec.opRequest]

theorem conflictsForPgn : ∀ pgn, Statement (.conflictsForPgn pgn) := by
  unfold Statement
  simp [encode, row, leNat, Codec.opRequest]

end Sys2Proof.Laws.RowMatch
end

