-- ==== Sys2Proof/Laws/State.lean ====
section
/-! SUPPORT. One lemma per field and update of State, and what the shared operations over it can give, so that no later
proof unfolds a record update or `answer`. -/

namespace Sys2Proof.Machine

variable (s : State) (r : Response) (recs : List InstanceRecord) (conf : List InstanceConflict)
  (pending : List Request)

@[simp] theorem State.withResponse_recs : (s.withResponse r).recs = s.recs := rfl
@[simp] theorem State.withResponse_conf : (s.withResponse r).conf = s.conf := rfl
@[simp] theorem State.withResponse_pending : (s.withResponse r).pending = s.pending := rfl
@[simp] theorem State.withResponse_response : (s.withResponse r).response = some r := rfl

@[simp] theorem State.withDetector_recs : (s.withDetector recs conf).recs = recs := rfl
@[simp] theorem State.withDetector_conf : (s.withDetector recs conf).conf = conf := rfl
@[simp] theorem State.withDetector_pending : (s.withDetector recs conf).pending = s.pending := rfl
@[simp] theorem State.withDetector_response : (s.withDetector recs conf).response = s.response := rfl

@[simp] theorem State.withPending_recs : (s.withPending pending).recs = s.recs := rfl
@[simp] theorem State.withPending_conf : (s.withPending pending).conf = s.conf := rfl
@[simp] theorem State.withPending_pending : (s.withPending pending).pending = pending := rfl
@[simp] theorem State.withPending_response : (s.withPending pending).response = s.response := rfl

variable {s r}

/-- `answer` gives exactly the state with the response. -/
theorem answer_eq_next {t : State} (h : answer s r = .next t) : t = s.withResponse r := by
  cases h; rfl

/-- All that `answerIf` can do: answer within the contract, refuse outside it. -/
theorem answerIf_cases (ok : Bool) :
    (ok = true ∧ answerIf ok s r = .next (s.withResponse r)) ∨
    (ok = false ∧ answerIf ok s r = .refused .outOfContract) := by
  cases ok
  · exact .inr ⟨rfl, rfl⟩
  · exact .inl ⟨rfl, rfl⟩

/-- If `answerIf` gives a next state, the request was within the contract and only the response changed. -/
theorem answerIf_next {ok : Bool} {t : State} (h : answerIf ok s r = .next t) :
    ok = true ∧ t = s.withResponse r := by
  rcases answerIf_cases (s := s) (r := r) ok with ⟨rfl, e⟩ | ⟨rfl, e⟩ <;> rw [e] at h <;> cases h
  exact ⟨rfl, rfl⟩

/-- A request within the contract is answered. -/
theorem answerIf_of {ok : Bool} (h : ok = true) : answerIf ok s r = .next (s.withResponse r) := by
  subst h; rfl

/-- `respond` reports a failure exactly when the operation failed, and then no rejected message. -/
theorem respond_fail {α : Type} {result : α → Result} {e : Except Failure α} {f : Failure}
    {w : Option DecodedMessage} (h : respond result e = .fail f w) : e = .error f ∧ w = none := by
  cases e with
  | error g => cases h; exact ⟨rfl, rfl⟩
  | ok x => cases h

end Sys2Proof.Machine
end

