-- ==== Sys2Proof/Laws/RecStore.lean ====
section
/-! SUPPORT. The record store: every operation on it keeps its canonical form, and a binding reads back as the last one
written for its key. The ascending lists that stand for finite sets: their members and their order. -/

namespace Sys2Proof.Machine

/-- The key tells the PGN and the source. -/
theorem recKey_inj {g g' : Pgn} {a a' : Byte} (h : recKey g a = recKey g' a') : g = g' ∧ a = a' := by
  have ha := a.isLt
  have ha' := a'.isLt
  unfold recKey at h
  exact ⟨BitVec.eq_of_toNat_eq (by omega), BitVec.eq_of_toNat_eq (by omega)⟩

/-- The canonical form as an order on the list. -/
theorem recStoreWf_iff (recs : List InstanceRecord) :
    recStoreWf recs = true ↔ recs.Pairwise (fun r q => keyOf r < keyOf q) := by
  induction recs with
  | nil => simp [recStoreWf]
  | cons r rs ih => simp [recStoreWf, ih]

/-- Every member of the store after an upsert is the new record or an old one. -/
theorem mem_recUpsert {r q : InstanceRecord} {recs : List InstanceRecord} (h : q ∈ recUpsert r recs) :
    q = r ∨ q ∈ recs := by
  induction recs with
  | nil => simpa [recUpsert] using h
  | cons x xs ih =>
    simp only [recUpsert] at h
    split at h
    · simpa using h
    · split at h
      · exact (List.mem_cons.1 h).imp id (List.mem_cons_of_mem x)
      · rcases List.mem_cons.1 h with rfl | h
        · exact .inr List.mem_cons_self
        · exact (ih h).imp id (List.mem_cons_of_mem x)

/-- OBSERVE's write keeps the canonical form. -/
theorem recUpsert_wf {r : InstanceRecord} {recs : List InstanceRecord} (h : recStoreWf recs = true) :
    recStoreWf (recUpsert r recs) = true := by
  rw [recStoreWf_iff] at h ⊢
  induction recs with
  | nil => simp [recUpsert]
  | cons x xs ih =>
    rw [List.pairwise_cons] at h
    simp only [recUpsert]
    split
    · next hlt =>
      refine List.pairwise_cons.2 ⟨?_, List.pairwise_cons.2 h⟩
      intro y hy
      rcases List.mem_cons.1 hy with rfl | hy
      · exact hlt
      · exact lt_trans hlt (h.1 y hy)
    · split
      · next heq => exact List.pairwise_cons.2 ⟨fun y hy => by have := h.1 y hy; omega, h.2⟩
      · next hge hne =>
        refine List.pairwise_cons.2 ⟨?_, ih h.2⟩
        intro y hy
        rcases mem_recUpsert hy with rfl | hy
        · omega
        · exact h.1 y hy

/-- The empty store is in canonical form. -/
theorem recStoreWf_nil : recStoreWf [] = true := rfl

theorem recLookup_cons (r : InstanceRecord) (recs : List InstanceRecord) (g : Pgn) (a : Byte) :
    recLookup (r :: recs) g a = if r.pgn = g ∧ r.source = a then some r else recLookup recs g a := by
  simp only [recLookup, List.find?_cons]
  by_cases h : r.pgn = g ∧ r.source = a
  · simp [h.1, h.2]
  · rw [if_neg h]
    have : (r.pgn == g && r.source == a) = false := by
      rw [Bool.and_eq_false_iff]
      simp only [beq_eq_false_iff_ne, ne_eq]
      tauto
    rw [this]

/-- Reading back the key just written gives the record written, and every other key reads as before. -/
theorem recLookup_recUpsert (r : InstanceRecord) (recs : List InstanceRecord) (g : Pgn) (a : Byte) :
    recLookup (recUpsert r recs) g a = if r.pgn = g ∧ r.source = a then some r else recLookup recs g a := by
  induction recs with
  | nil => simp only [recUpsert, recLookup_cons]
  | cons x xs ih =>
    simp only [recUpsert]
    split
    · rw [recLookup_cons]
    · split
      · next heq =>
        obtain ⟨hp, hs⟩ := recKey_inj heq
        rw [recLookup_cons, recLookup_cons]
        split
        · rfl
        · next hn => rw [if_neg (by rw [← hp, ← hs]; exact hn)]
      · next hne =>
        rw [recLookup_cons, recLookup_cons, ih]
        by_cases hx : x.pgn = g ∧ x.source = a
        · rw [if_pos hx, if_neg, if_pos hx]
          rintro ⟨h1, h2⟩
          exact hne (by unfold keyOf; rw [h1, h2, hx.1, hx.2])
        · rw [if_neg hx, if_neg hx]

/-- An upsert never shortens the store. -/
theorem length_le_recUpsert (r : InstanceRecord) (recs : List InstanceRecord) :
    recs.length ≤ (recUpsert r recs).length := by
  induction recs with
  | nil => simp [recUpsert]
  | cons x xs ih =>
    simp only [recUpsert]
    split
    · simp
    · split
      · simp
      · simpa using ih

section Ascending

variable {α : Type} {key : α → Nat}

theorem mem_insertAsc (inj : ∀ x y, key x = key y → x = y) (x y : α) (ys : List α) :
    y ∈ insertAsc key x ys ↔ y = x ∨ y ∈ ys := by
  induction ys with
  | nil => simp [insertAsc]
  | cons z zs ih =>
    simp only [insertAsc]
    split
    · simp
    · split
      · next heq => have := inj _ _ heq; subst this; simp
      · simp only [List.mem_cons, ih]; tauto

/-- The ascending list has the members of the list it was made of. -/
theorem mem_toAsc (inj : ∀ x y, key x = key y → x = y) (y : α) (xs : List α) : y ∈ toAsc key xs ↔ y ∈ xs := by
  induction xs with
  | nil => simp [toAsc]
  | cons x xs ih =>
    have : toAsc key (x :: xs) = insertAsc key x (toAsc key xs) := rfl
    rw [this, mem_insertAsc inj, ih, List.mem_cons]

theorem insertAsc_pairwise (inj : ∀ x y, key x = key y → x = y) (x : α) {ys : List α}
    (h : ys.Pairwise (fun a b => key a < key b)) :
    (insertAsc key x ys).Pairwise (fun a b => key a < key b) := by
  induction ys with
  | nil => simp [insertAsc]
  | cons z zs ih =>
    have hz := List.pairwise_cons.1 h
    simp only [insertAsc]
    split
    · next hlt =>
      refine List.pairwise_cons.2 ⟨fun y hy => ?_, h⟩
      rcases List.mem_cons.1 hy with rfl | hy
      · exact hlt
      · exact lt_trans hlt (hz.1 y hy)
    · split
      · exact h
      · next h1 h2 =>
        refine List.pairwise_cons.2 ⟨fun y hy => ?_, ih hz.2⟩
        rcases (mem_insertAsc inj x y zs).1 hy with rfl | hy
        · omega
        · exact hz.1 y hy

/-- The ascending list ascends strictly. -/
theorem toAsc_pairwise (inj : ∀ x y, key x = key y → x = y) (xs : List α) :
    (toAsc key xs).Pairwise (fun a b => key a < key b) := by
  induction xs with
  | nil => exact List.Pairwise.nil
  | cons x xs ih => exact insertAsc_pairwise inj x ih

end Ascending

theorem byte_toNat_inj (x y : Byte) (h : x.toNat = y.toNat) : x = y := BitVec.eq_of_toNat_eq h

theorem group_key_inj (x y : Pgn × Byte) (h : recKey x.1 x.2 = recKey y.1 y.2) : x = y :=
  Prod.ext (recKey_inj h).1 (recKey_inj h).2

/-- S(g, i): the sources of the records of this PGN with this instance. -/
theorem mem_sourcesOf {recs : List InstanceRecord} {g : Pgn} {i a : Byte} :
    a ∈ sourcesOf recs g i ↔ ∃ r ∈ recs, r.pgn = g ∧ r.inst = i ∧ r.source = a := by
  unfold sourcesOf
  rw [mem_toAsc byte_toNat_inj]
  simp only [List.mem_map, List.mem_filter, Bool.and_eq_true, beq_iff_eq]
  constructor
  · rintro ⟨r, ⟨hr, hg, hi⟩, ha⟩; exact ⟨r, hr, hg, hi, ha⟩
  · rintro ⟨r, hr, hg, hi, ha⟩; exact ⟨r, ⟨hr, hg, hi⟩, ha⟩

/-- What a conflict of `conflicts` is. -/
theorem mem_conflicts {recs : List InstanceRecord} {c : InstanceConflict} :
    c ∈ conflicts recs ↔
      c.sources = sourcesOf recs c.pgn c.inst ∧ 1 < c.sources.length := by
  unfold conflicts groups groupConflict
  simp only [List.mem_filterMap, Option.ite_none_right_eq_some, Option.some.injEq]
  constructor
  · rintro ⟨g, _, hl, rfl⟩; exact ⟨rfl, hl⟩
  · rintro ⟨hs, hl⟩
    refine ⟨(c.pgn, c.inst), ?_, ?_, ?_⟩
    · rw [mem_toAsc group_key_inj]
      obtain ⟨a, ha⟩ := List.exists_mem_of_length_pos (lt_trans Nat.zero_lt_one hl)
      rw [hs] at ha
      obtain ⟨r, hr, hg, hi, _⟩ := mem_sourcesOf.1 ha
      exact List.mem_map.2 ⟨r, hr, by rw [hg, hi]⟩
    · rw [← hs]; exact hl
    · cases c; simp only at hs ⊢; rw [← hs]

end Sys2Proof.Machine
end

