-- ==== Sys2Proof/Tests/Slice0.lean ====
section
/-! SUPPORT. The model's own tests, each a named theorem. Expected results are the spec's (95_test_vectors.md, the id in
the comment) or written out by hand from its encodings (30_encoding.md); the operand bytes of an operation are log entry
3's. The last section shows, for each obligation with hypotheses, a state and operands that meet them. -/

namespace Sys2Proof.Tests

open Sys2Proof Sys2Proof.Machine Sys2Proof.Spec

/-! ## Helpers -/

/-- The illustrative configuration of 95_test_vectors.md. -/
def cfg : Config := Config.ofOpen
  { propPgn := 61184, propPriority := 6, gfPgn := 126208, gfFuncIndex := 1, gfAckSuccess := fun v => v == 0
    decTable := [(130900, .generic ⟨[0x44], [0x69], 2, [⟨[0x61], 0, 8, true, 0x3FF0000000000000, 0, 0, 0, [], none⟩,
      ⟨[0x62], 12, 8, false, 0x3FF0000000000000, 0, 0, 0, [], none⟩]⟩), (130901, .special fun p => ⟨p, [], [], true⟩)]
    ignorePgns := [65000], tempFix := none, rangeCheck := false, strMaxPred := 31, instancePgnsMore := [(130000, true)]
    timestampMore := fun n => n < 256, nanChoice := fun _ _ _ => 0x7FF8000000000000, absentByte := fun _ _ => 0xEE }

/-- The same with the temperature correction of vectors F14 to F17 (threshold 1000.0, unit "C") and the range check. -/
def cfg2 : Config :=
  { cfg with tempFix := some (0x408F400000000000, fun u => u == [0x43]), rangeCheck := true, strMaxPred := 1 }

/-- The same with another PARSE_MIN_LEN and another INDEX_NAME (D7 and D27 keep both as parameters). -/
def cfg3 : Config :=
  { cfg with parseMinLen := fun _ => 5, indexName := fun base i => BitVec.ofNat 8 i :: base }

/-- A field with scale, offset and signedness. -/
def sig (start : BitVec 32) (n : Nat) (signed : Bool) (scale : F64 := 0x3FF0000000000000) (offset : F64 := 0) : SignalDef :=
  ⟨[0x73], start, n, signed, scale, offset, 0, 0x4049000000000000, [0x43], none⟩

/-- The same with an enumeration table. -/
def enumSig (start : BitVec 32) (n : Nat) (signed : Bool) (t : List (Int × Text)) : SignalDef :=
  { sig start n signed with enumTable := some t }

/-- A Message from source 0x10. -/
def msg (pgn : Pgn) (p : Bytes) : Message := ⟨pgn, 6, 0x10, 255, p, 0⟩

/-- The value of the machine's T that a host's natural names. -/
def seen (n : Nat) : Timestamp := Config.openValues.timestamp n

/-- A consistent detector with two conflicting records. -/
def conflicting : State :=
  { recs := [⟨127508, 0x10, 0, seen 1⟩, ⟨127508, 0x20, 0, seen 2⟩], conf := [⟨127508, 0, [0x10, 0x20]⟩], pending := []
    response := none }

/-- The state after reset with one request pending. -/
def asked (port : Port) (bytes : Bytes) : State := State.reset.withPending [⟨port, bytes⟩]

/-- The response of an outcome. -/
def responseOf : Outcome → Option Response
  | .next s => s.response
  | .fault _ => none
  | .refused _ => none

/-- The next state of an outcome. -/
def nextOf : Outcome → Option State
  | .next s => some s
  | .fault _ => none
  | .refused _ => none

/-- The refusal of an outcome. -/
def refusalOf : Outcome → Option Refusal
  | .next _ => none
  | .fault _ => none
  | .refused r => some r

/-- decode, on the illustrative configuration. -/
def dec (port : Port) (bytes : Bytes) : Option Instr := (decode cfg ⟨port, bytes⟩).toOption

/-! ## Decoding: one word for every constructor, written out from the spec's encodings -/

theorem test_decode_simpleAction : dec .prop [0xE8, 0x85, 0x01, 0x02, 0x01, 0x00] = some (.simpleAction 2 1) := by decide

theorem test_decode_stateInfo : dec .prop [0xE8, 0x9D, 0x02, 0x03, 0x01, 0x02, 0xFF] = some (.stateInfo 3 1 2) := by decide

theorem test_decode_customHsb : dec .prop [0xE8, 0x85, 0x03, 0x08, 0x01, 0x80, 0xFF, 0x40] = some (.customHsb 8 1 0x80 0xFF 0x40) := by decide

theorem test_decode_startPattern : dec .prop [0xE8, 0x85, 0x04, 0x02, 0x05, 0x00] = some (.startPattern 2 5) := by decide

theorem test_decode_outputChannelPwm : dec .prop [0xE8, 0x85, 0x07, 0x02, 0x80, 0xE8, 0x03, 0x00] = some (.outputChannelPwm 2 128 1000) := by decide

theorem test_decode_gfCommand : dec (.groupFunction 0) [0x01, 0x14, 0xF2, 0x01, 0xF8, 0x02, 0x01, 0x00, 0x03, 0x01] = some (.gfCommand 127508 0xF8 2 [1, 0, 3, 1]) := by decide

theorem test_decode_gfAck : dec (.groupFunction 127508) [0x02, 0x14, 0xF2, 0x01, 0x00, 0x02, 0x00, 0x00] = some (.gfAck 127508 127508 2 0) := by decide

theorem test_decode_propHeader : dec .header [0xE8, 0x9D] = some (.propHeader) := by decide

theorem test_decode_busId : dec .busId [0x10, 0x0E, 0xEF, 0x18] = some (.busId 6 0x0EF0E 0x10) := by decide

theorem test_decode_packHdr : dec .op [0x01, 0xE8, 0x05, 0x04] = some (.packHdr 1512 4) := by decide

theorem test_decode_unpackHdr : dec .op [0x02, 0xE8, 0x85] = some (.unpackHdr 0xE8 0x85) := by decide

theorem test_decode_makeId : dec .op [0x03, 0x06, 0x00, 0xEF, 0x00, 0x00, 0x10, 0x0E] = some (.makeId 6 61184 0x10 0x0E) := by decide

theorem test_decode_isValid : dec .op [0x04, 0x02, 0xE8, 0x85] = some (.isValid [0xE8, 0x85]) := by decide

theorem test_decode_getPropId : dec .op [0x05, 0x02, 0xE8, 0x85] = some (.getPropId [0xE8, 0x85]) := by decide

theorem test_decode_createSimpleAction : dec .op [0x11, 0x0E, 0x10, 0x02, 0x01] = some (.createSimpleAction 0x0E 0x10 2 1) := by decide

theorem test_decode_createStateInfo : dec .op [0x12, 0xFF, 0x20, 0x03, 0x01, 0x02] = some (.createStateInfo 255 0x20 3 1 2) := by decide

theorem test_decode_createCustomHsb : dec .op [0x13, 0x0E, 0x10, 0x08, 0x01, 0x80, 0xFF, 0x40] = some (.createCustomHsb 0x0E 0x10 8 1 0x80 0xFF 0x40) := by decide

theorem test_decode_createStartPattern : dec .op [0x14, 0x0E, 0x10, 0x02, 0x05] = some (.createStartPattern 0x0E 0x10 2 5) := by decide

theorem test_decode_createOutputChannelPwm : dec .op [0x17, 0x0E, 0x10, 0x02, 0x80, 0xE8, 0x03] = some (.createOutputChannelPwm 0x0E 0x10 2 128 1000) := by decide

theorem test_decode_parseProprietary : dec .op [0x20, 0x02, 0xE8, 0x85] = some (.parseProprietary [0xE8, 0x85]) := by decide

theorem test_decode_parseSimpleAction : dec .op [0x21, 0x02, 0xE8, 0x85] = some (.parseSimpleAction [0xE8, 0x85]) := by decide

theorem test_decode_parseStateInfo : dec .op [0x22, 0x02, 0xE8, 0x85] = some (.parseStateInfo [0xE8, 0x85]) := by decide

theorem test_decode_parseCustomHsb : dec .op [0x23, 0x02, 0xE8, 0x85] = some (.parseCustomHsb [0xE8, 0x85]) := by decide

theorem test_decode_parseStartPattern : dec .op [0x24, 0x02, 0xE8, 0x85] = some (.parseStartPattern [0xE8, 0x85]) := by decide

theorem test_decode_parseOutputChannelPwm : dec .op [0x27, 0x02, 0xE8, 0x85] = some (.parseOutputChannelPwm [0xE8, 0x85]) := by decide

theorem test_decode_gfBuildCmd : dec .op [0x31, 0x14, 0xF2, 0x01, 0x00, 0xF8, 0x02, 0x01, 0x01, 0x00, 0x03, 0x02, 0x01, 0x07] = some (.gfBuildCmd 127508 0xF8 [(1, [0]), (3, [1, 7])]) := by decide

theorem test_decode_gfParseAck : dec .op [0x32, 0x02, 0xE8, 0x85, 0x14, 0xF2, 0x01, 0xFF] = some (.gfParseAck [0xE8, 0x85] 0xFF01F214) := by decide

theorem test_decode_extractRaw : dec .op [0x41, 0x02, 0xE8, 0x85, 0x04, 0x00, 0x00, 0x00, 0x3F] = some (.extractRaw [0xE8, 0x85] 4 64) := by decide

theorem test_decode_signExtend : dec .op [0x42, 0x00, 0x0F, 0x00, 0x00, 0x00, 0x00, 0x00, 0x00, 0x0B, 0x01] = some (.signExtend 0xF00 12 true) := by decide

theorem test_decode_extract : dec .op [0x43, 0x02, 0xE8, 0x85, 0x01, 0x73, 0x04, 0x00, 0x00, 0x00, 0x0B, 0x01, 0x00, 0x00, 0x00, 0x00, 0x00, 0x00, 0xF0, 0x3F, 0x00, 0x00, 0x00, 0x00, 0x00, 0x00, 0x00, 0x00, 0x00, 0x00, 0x00, 0x00, 0x00, 0x00, 0x00, 0x00, 0x00, 0x00, 0x00, 0x00, 0x00, 0x00, 0x49, 0x40, 0x01, 0x43, 0x00] = some (.extract [0xE8, 0x85] (sig 4 12 true)) := by decide

theorem test_decode_checkAvailable : dec .op [0x44, 0xFA, 0x00, 0x00, 0x00, 0x00, 0x00, 0x00, 0x00, 0x07, 0x00] = some (.checkAvailable 0xFA 8 false) := by decide

theorem test_decode_scale : dec .op [0x45, 0x07, 0x00, 0x00, 0x00, 0x00, 0x00, 0x00, 0x00, 0x01, 0x73, 0x04, 0x00, 0x00, 0x00, 0x0B, 0x01, 0x00, 0x00, 0x00, 0x00, 0x00, 0x00, 0xF0, 0x3F, 0x00, 0x00, 0x00, 0x00, 0x00, 0x00, 0x00, 0x00, 0x00, 0x00, 0x00, 0x00, 0x00, 0x00, 0x00, 0x00, 0x00, 0x00, 0x00, 0x00, 0x00, 0x00, 0x49, 0x40, 0x01, 0x43, 0x00] = some (.scale 7 (sig 4 12 true)) := by decide

theorem test_decode_enumLookup : dec .op [0x46, 0x07, 0x00, 0x00, 0x00, 0x00, 0x00, 0x00, 0x00, 0x01, 0x73, 0x04, 0x00, 0x00, 0x00, 0x0B, 0x01, 0x00, 0x00, 0x00, 0x00, 0x00, 0x00, 0xF0, 0x3F, 0x00, 0x00, 0x00, 0x00, 0x00, 0x00, 0x00, 0x00, 0x00, 0x00, 0x00, 0x00, 0x00, 0x00, 0x00, 0x00, 0x00, 0x00, 0x00, 0x00, 0x00, 0x00, 0x49, 0x40, 0x01, 0x43, 0x01, 0x01, 0x01, 0x02, 0x4F, 0x6E] = some (.enumLookup 7 (enumSig 4 12 true [(-1, [0x4F, 0x6E])])) := by decide

theorem test_decode_decodeSignal : dec .op [0x47, 0x02, 0xE8, 0x85, 0x01, 0x73, 0x04, 0x00, 0x00, 0x00, 0x0B, 0x01, 0x00, 0x00, 0x00, 0x00, 0x00, 0x00, 0xF0, 0x3F, 0x00, 0x00, 0x00, 0x00, 0x00, 0x00, 0x00, 0x00, 0x00, 0x00, 0x00, 0x00, 0x00, 0x00, 0x00, 0x00, 0x00, 0x00, 0x00, 0x00, 0x00, 0x00, 0x49, 0x40, 0x01, 0x43, 0x00] = some (.decodeSignal [0xE8, 0x85] (sig 4 12 true)) := by decide

theorem test_decode_decodeMessage : dec .op [0x48, 0x14, 0xF2, 0x01, 0x00, 0x06, 0x10, 0xFF, 0x02, 0x00, 0x01, 0x01] = some (.decodeMessage ⟨127508, 6, 0x10, 255, [0x00, 0x01], 1⟩) := by decide

theorem test_decode_readU8 : dec .op [0x51, 0x02, 0xE8, 0x85, 0x02] = some (.readU8 [0xE8, 0x85] 2) := by decide

theorem test_decode_readU16 : dec .op [0x52, 0x02, 0xE8, 0x85, 0x80, 0x01] = some (.readU16 [0xE8, 0x85] 128) := by decide

theorem test_decode_readU32 : dec .op [0x53, 0x02, 0xE8, 0x85, 0x01] = some (.readU32 [0xE8, 0x85] 1) := by decide

theorem test_decode_readVarString : dec .op [0x54, 0x02, 0xE8, 0x85, 0x01] = some (.readVarString [0xE8, 0x85] 1) := by decide

theorem test_decode_splitBits : dec .op [0x55, 0xA5, 0x04, 0x03] = some (.splitBits 0xA5 4 4) := by decide

theorem test_decode_readRepeated : dec .op [0x56, 0x02, 0xE8, 0x85, 0x01, 0x01, 0x01, 0x01, 0x73, 0x04, 0x00, 0x00, 0x00, 0x0B, 0x01, 0x00, 0x00, 0x00, 0x00, 0x00, 0x00, 0xF0, 0x3F, 0x00, 0x00, 0x00, 0x00, 0x00, 0x00, 0x00, 0x00, 0x00, 0x00, 0x00, 0x00, 0x00, 0x00, 0x00, 0x00, 0x00, 0x00, 0x00, 0x00, 0x00, 0x00, 0x49, 0x40, 0x01, 0x43, 0x00] = some (.readRepeated [0xE8, 0x85] 1 2 [sig 4 12 true]) := by decide

theorem test_decode_writeU8 : dec .op [0x58, 0x02, 0xE8, 0x85, 0x01, 0x07] = some (.writeU8 [0xE8, 0x85] 1 7) := by decide

theorem test_decode_writeU16 : dec .op [0x59, 0x02, 0xE8, 0x85, 0x00, 0xE8, 0x03] = some (.writeU16 [0xE8, 0x85] 0 1000) := by decide

theorem test_decode_writeU24 : dec .op [0x5A, 0x02, 0xE8, 0x85, 0x00, 0x14, 0xF2, 0x01, 0x00] = some (.writeU24 [0xE8, 0x85] 0 127508) := by decide

theorem test_decode_observe : dec .op [0x61, 0x14, 0xF2, 0x01, 0x00, 0x06, 0x10, 0xFF, 0x02, 0x00, 0x01, 0x01, 0x09] = some (.observe ⟨127508, 6, 0x10, 255, [0x00, 0x01], 1⟩ (seen 9)) := by rfl

theorem test_decode_recomputeConflicts : dec .op [0x62] = some (.recomputeConflicts) := by decide

theorem test_decode_clear : dec .op [0x63] = some (.clear) := by decide

theorem test_decode_hasConflict : dec .op [0x64, 0x20] = some (.hasConflict 0x20) := by decide

theorem test_decode_conflictsForPgn : dec .op [0x65, 0x14, 0xF2, 0x01, 0x00] = some (.conflictsForPgn 127508) := by decide

/-! ## Decoding: what is no instruction, and the table words -/

theorem test_decode_rejects : decode cfg ⟨.op, [0x06]⟩ = .error (.unknownOp 0x06) ∧ decode cfg ⟨.op, [0x55, 0xA5]⟩ = .error .truncated ∧
    decode cfg ⟨.op, [0x42, 0, 0, 0, 0, 0, 0, 0, 0, 7, 2]⟩ = .error (.badFlag 2) ∧
    decode cfg ⟨.busId, [0, 0, 0, 0x20]⟩ = .error .badId ∧
    decode cfg ⟨.prop, [0xE9, 0x85, 0x01]⟩ = .error (.noMatch .wrongHeader) ∧
    decode cfg ⟨.prop, [0xE8, 0x85, 0x03, 0x08, 0x01]⟩ = .error (.noMatch .shortForType) ∧
    decode cfg ⟨.prop, zeroFill 224⟩ = .error .tooLongPayload := by decide +kernel

theorem test_tableWords : decodeTableWord 24 0x0785E8 = some (.outputChannelPwm 0 0 0) ∧ decodeTableWord 16 0x85E8 = some .propHeader ∧
    decodeTableWord 32 0x18EF0E10 = some (.busId 6 0x0EF0E 0x10) ∧ decodeTableWord 8 0x63 = some .clear ∧
    decodeTableWord 8 0x56 = some (.readRepeated [] 0 1 []) := by decide +kernel

theorem test_withFetchWord_runs : nextOf (step (conflicting.withFetchWord 8 0x63)) =
    some { recs := [], conf := [], pending := [], response := some (.ok .done) } := by decide +kernel

/-! ## Well-formedness: each check refuses an ill-formed request, and so does the meaning -/

theorem test_wf_longPayload : ∀ i ∈ [.isValid (zeroFill 224),
      .getPropId (zeroFill 224),
      .parseProprietary (zeroFill 224),
      .parseSimpleAction (zeroFill 224),
      .parseStateInfo (zeroFill 224),
      .parseCustomHsb (zeroFill 224),
      .parseStartPattern (zeroFill 224),
      .parseOutputChannelPwm (zeroFill 224),
      .gfParseAck (zeroFill 224) 0,
      .gfCommand 0 0 0 (zeroFill 218),
      .decodeSignal (zeroFill 224) (sig 0 8 false)],
    Instr.wf i = false ∧ refusalOf (exec i State.reset) = some .outOfContract := by decide +kernel

theorem test_wf_priority : Instr.wf (.makeId 8 0 0 0) = false ∧ refusalOf (exec (.makeId 8 0 0 0) State.reset) = some .outOfContract := by decide

theorem test_wf_extractRaw : Instr.wf (.extractRaw [] 0 0) = false ∧ refusalOf (exec (.extractRaw [] 0 0) State.reset) = some .outOfContract := by decide

theorem test_wf_extractRaw65 : Instr.wf (.extractRaw [] 0 65) = false ∧ refusalOf (exec (.extractRaw [] 0 65) State.reset) = some .outOfContract := by decide

theorem test_wf_signExtend : Instr.wf (.signExtend 0 65 true) = false ∧ refusalOf (exec (.signExtend 0 65 true) State.reset) = some .outOfContract := by decide

theorem test_wf_checkAvailable : Instr.wf (.checkAvailable 0 0 false) = false ∧ refusalOf (exec (.checkAvailable 0 0 false) State.reset) = some .outOfContract := by decide

theorem test_wf_extract : Instr.wf (.extract [] (sig 0 65 false)) = false ∧ refusalOf (exec (.extract [] (sig 0 65 false)) State.reset) = some .outOfContract := by decide

theorem test_wf_scale : Instr.wf (.scale 0 (sig 0 0 false)) = false ∧ refusalOf (exec (.scale 0 (sig 0 0 false)) State.reset) = some .outOfContract := by decide

theorem test_wf_enumKeys : Instr.wf (.enumLookup 0 (enumSig 0 8 false [(1, []), (1, [0x41])])) = false ∧ refusalOf (exec (.enumLookup 0 (enumSig 0 8 false [(1, []), (1, [0x41])])) State.reset) = some .outOfContract := by decide

theorem test_wf_source : Instr.wf (.decodeMessage ⟨0, 0, 252, 0, [], 0⟩) = false ∧ refusalOf (exec (.decodeMessage ⟨0, 0, 252, 0, [], 0⟩) State.reset) = some .outOfContract := by decide

theorem test_wf_messagePriority : Instr.wf (.observe ⟨0, 8, 0, 0, [], 0⟩ (seen 0)) = false ∧ refusalOf (exec (.observe ⟨0, 8, 0, 0, [], 0⟩ (seen 0)) State.reset) = some .outOfContract := by decide

theorem test_wf_messageCursor : Instr.wf (.observe ⟨0, 0, 0, 0, [], 1⟩ (seen 0)) = false ∧ refusalOf (exec (.observe ⟨0, 0, 0, 0, [], 1⟩ (seen 0)) State.reset) = some .outOfContract := by decide

theorem test_wf_cursor : Instr.wf (.readU8 [] 1) = false ∧ refusalOf (exec (.readU8 [] 1) State.reset) = some .outOfContract := by decide

theorem test_wf_cursor16 : Instr.wf (.readU16 [] 1) = false ∧ refusalOf (exec (.readU16 [] 1) State.reset) = some .outOfContract := by decide

theorem test_wf_cursor32 : Instr.wf (.readU32 [] 1) = false ∧ refusalOf (exec (.readU32 [] 1) State.reset) = some .outOfContract := by decide

theorem test_wf_cursorText : Instr.wf (.readVarString [] 1) = false ∧ refusalOf (exec (.readVarString [] 1) State.reset) = some .outOfContract := by decide

theorem test_wf_splitWidth : Instr.wf (.splitBits 0 0 0) = false ∧ refusalOf (exec (.splitBits 0 0 0) State.reset) = some .outOfContract := by decide

theorem test_wf_splitRange : Instr.wf (.splitBits 0 7 2) = false ∧ refusalOf (exec (.splitBits 0 7 2) State.reset) = some .outOfContract := by decide

theorem test_wf_recSize : Instr.wf (.readRepeated [] 0 0 []) = false ∧ refusalOf (exec (.readRepeated [] 0 0 []) State.reset) = some .outOfContract := by decide

theorem test_wf_recField : Instr.wf (.readRepeated [] 0 1 [sig 0 0 false]) = false ∧ refusalOf (exec (.readRepeated [] 0 1 [sig 0 0 false]) State.reset) = some .outOfContract := by decide

theorem test_wf_write8 : Instr.wf (.writeU8 [] 1 0) = false ∧ refusalOf (exec (.writeU8 [] 1 0) State.reset) = some .outOfContract := by decide

theorem test_wf_write16 : Instr.wf (.writeU16 [] 1 0) = false ∧ refusalOf (exec (.writeU16 [] 1 0) State.reset) = some .outOfContract := by decide

theorem test_wf_write24 : Instr.wf (.writeU24 [] 1 0) = false ∧ refusalOf (exec (.writeU24 [] 1 0) State.reset) = some .outOfContract := by decide

theorem test_wf_accepts_limits : Instr.wf (.isValid (zeroFill 223)) = true ∧ Instr.wf (.makeId 7 0 0 0) = true ∧
    Instr.wf (.gfCommand 0 0 0 (zeroFill 217)) = true ∧ Instr.wf (.extractRaw [] 0 64) = true ∧
    Instr.wf (.splitBits 0 7 1) = true ∧ Instr.wf (.decodeMessage ⟨0, 7, 251, 255, [0], 1⟩) = true := by decide +kernel

/-! ## Meanings: the spec's vectors, each on one operation -/

/-- H7 -/
theorem test_packHdr : responseOf (exec (.packHdr 0x0DE8 0x0C) State.reset) = some (.ok (.headerBytes 0xE8 0x85)) := by decide

/-- H3 -/
theorem test_packHdr_max : responseOf (exec (.packHdr 2047 7) State.reset) = some (.ok (.headerBytes 0xFF 0xE7)) := by decide

/-- H9 -/
theorem test_unpackHdr : responseOf (exec (.unpackHdr 0xE8 0x9D) State.reset) = some (.ok (.headerFields 1512 4)) := by decide

/-- H10 -/
theorem test_unpackHdr_max : responseOf (exec (.unpackHdr 0xFF 0xFF) State.reset) = some (.ok (.headerFields 2047 7)) := by decide

/-- H26 -/
theorem test_makeId : responseOf (exec (.makeId 6 127508 0x23 0x05) State.reset) = some (.ok (.id 0x19F21523)) := by decide

/-- H29 -/
theorem test_makeId_broadcast : responseOf (exec (.makeId 3 0x7FFFF 1 255) State.reset) = some (.ok (.id 0x0FFFFF01)) := by decide

/-- H16 -/
theorem test_isValid : responseOf (exec (.isValid [0xE8, 0x9D, 0x01]) State.reset) = some (.ok (.valid true)) := by decide

/-- H13 -/
theorem test_isValid_short : responseOf (exec (.isValid [0xE8, 0x85]) State.reset) = some (.ok (.valid false)) := by decide

/-- H20 -/
theorem test_getPropId : responseOf (exec (.getPropId [0x00, 0x00, 0x2A]) State.reset) = some (.ok (.tag 0x2A)) := by decide

/-- H21 -/
theorem test_getPropId_short : responseOf (exec (.getPropId [0xE8, 0x85]) State.reset) = some (.fail .shortPayload none) := by decide

/-- S4, B1 -/
theorem test_createSimpleAction : createSimpleAction cfg 0x0E 0x10 2 1 = ⟨0x18EF0E10, [0xE8, 0x85, 0x01, 0x02, 0x01, 0x00]⟩ := by decide

/-- B4 -/
theorem test_createStateInfo : createStateInfo cfg 255 0x20 3 1 2 = ⟨0x18EF0020, [0xE8, 0x85, 0x02, 0x03, 0x01, 0x02, 0x00]⟩ := by decide

/-- B5 -/
theorem test_createCustomHsb : createCustomHsb cfg 0x0E 0x10 8 1 0x80 0xFF 0x40 = ⟨0x18EF0E10, [0xE8, 0x85, 0x03, 0x08, 0x01, 0x80, 0xFF, 0x40]⟩ := by decide

/-- B6 -/
theorem test_createStartPattern : createStartPattern cfg 0x0E 0x10 2 5 = ⟨0x18EF0E10, [0xE8, 0x85, 0x04, 0x02, 0x05, 0x00]⟩ := by decide

/-- B9 -/
theorem test_createOutputChannelPwm : createOutputChannelPwm cfg 0x0E 0x10 1 255 0x0100 = ⟨0x18EF0E10, [0xE8, 0x85, 0x07, 0x01, 0xFF, 0x00, 0x01, 0x00]⟩ := by decide

/-- P4 -/
theorem test_parseSimpleAction : responseOf (exec (.parseSimpleAction [0xE8, 0x85, 0x01, 0x02, 0x01, 0x00, 0xAA, 0xBB]) State.reset) = some (.ok (.parsed (.simpleAction 2 1))) := by decide

/-- P9 -/
theorem test_parseSimpleAction_tagFirst : responseOf (exec (.parseSimpleAction [0xE8, 0x85, 0x09]) State.reset) = some (.fail .wrongTag none) := by decide

/-- P11 -/
theorem test_parseStateInfo : responseOf (exec (.parseStateInfo [0xE8, 0x85, 0x02, 0x03, 0x01, 0x02, 0x00]) State.reset) = some (.ok (.parsed (.stateInfo 3 1 2))) := by decide

/-- P12 -/
theorem test_parseStateInfo_short : responseOf (exec (.parseStateInfo [0xE8, 0x85, 0x02, 0x03, 0x01, 0x02]) State.reset) = some (.fail .shortForType none) := by decide

/-- P13 -/
theorem test_parseCustomHsb : responseOf (exec (.parseCustomHsb [0xE8, 0x85, 0x03, 0x08, 0x01, 0x80, 0xFF, 0x40]) State.reset) = some (.ok (.parsed (.customHsb 8 1 128 255 64))) := by decide

/-- P14 -/
theorem test_parseCustomHsb_short : responseOf (exec (.parseCustomHsb [0xE8, 0x85, 0x03, 0x08, 0x01, 0x80, 0xFF]) State.reset) = some (.fail .shortForType none) := by decide

/-- P15 -/
theorem test_parseStartPattern : responseOf (exec (.parseStartPattern [0xE8, 0x85, 0x04, 0x02, 0x05, 0x00]) State.reset) = some (.ok (.parsed (.startPattern 2 5))) := by decide

/-- P17 -/
theorem test_parsePwm_seven : responseOf (exec (.parseOutputChannelPwm [0xE8, 0x85, 0x07, 0x02, 0x80, 0xE8, 0x03]) State.reset) = some (.ok (.parsed (.outputChannelPwm 2 128 1000))) := by decide

/-- P18 -/
theorem test_parsePwm_short : responseOf (exec (.parseOutputChannelPwm [0xE8, 0x85, 0x07, 0x02, 0x80, 0xE8]) State.reset) = some (.fail .shortForType none) := by decide

/-- P20 -/
theorem test_parseProprietary : responseOf (exec (.parseProprietary [0xE8, 0x85, 0x07, 0x01, 0xFF, 0x00, 0x01, 0x00]) State.reset) = some (.ok (.parsed (.outputChannelPwm 1 255 256))) := by decide

/-- P21 -/
theorem test_parseProprietary_unknown : responseOf (exec (.parseProprietary [0xE8, 0x85, 0x05, 0x00, 0x00, 0x00]) State.reset) = some (.fail (.unknownTag 5) none) := by decide

/-- G3 -/
theorem test_gfBuildCmd : gfBuildCmd cfg 0x12345678 0 [(2, [0x34, 0x12])] = .ok [0x01, 0x78, 0x56, 0x34, 0x00, 0x01, 0x02, 0x34, 0x12] := by decide

/-- G5 -/
theorem test_gfBuildCmd_tooLong : gfBuildCmd cfg 1 0 (List.replicate 109 (0, [0])) = .error .tooLong := by decide +kernel

/-- G14 -/
theorem test_gfParseAck : gfParseAck cfg [0x02, 0x14, 0xF2, 0x01, 0xFF, 0x01, 0x00] 0xFF01F214 = .ok (0, true) := by decide

/-- G9 -/
theorem test_gfParseAck_failure : gfParseAck cfg [0x02, 0x14, 0xF2, 0x01, 0x00, 0x01, 0x03] 127508 = .ok (3, false) := by decide

/-- E21 -/
theorem test_extractRaw_general : responseOf (exec (.extractRaw [0x10, 0x32, 0x54, 0x76, 0x98, 0xBA, 0xDC, 0xFE, 0x0F] 4 64) State.reset) = some (.ok (.raw 0xFFEDCBA987654321)) := by decide

/-- E5 -/
theorem test_extractRaw_fastTruncated : responseOf (exec (.extractRaw [0x34] 0 16) State.reset) = some (.ok (.raw 0x34)) := by decide

/-- X10 -/
theorem test_signExtend : responseOf (exec (.signExtend 0x4000000000000000 63 true) State.reset) = some (.ok (.raw 0xC000000000000000)) := by decide

/-- X11 -/
theorem test_signExtend_64 : responseOf (exec (.signExtend 0x8000000000000000 64 true) State.reset) = some (.ok (.raw 0x8000000000000000)) := by decide

/-- X13 -/
theorem test_extract : responseOf (exec (.extract [0x05, 0xF0] (sig 4 12 true)) State.reset) = some (.ok (.raw 0xFFFFFFFFFFFFFF00)) := by decide

/-- A5 -/
theorem test_checkAvailable : responseOf (exec (.checkAvailable 0xFFFA 16 false) State.reset) = some (.ok (.available false)) := by decide

/-- A7 -/
theorem test_checkAvailable_signed : responseOf (exec (.checkAvailable 0xFFFFFFFFFFFFFFFF 16 true) State.reset) = some (.ok (.available true)) := by decide

/-- F6: 99.60000000000001 -/
theorem test_scale_rounds : scale cfg 249 (sig 0 8 false 0x3FD999999999999A#64) = 0x4058E66666666667#64 := by decide +kernel

/-- F13: 2^53 -/
theorem test_scale_ties : scale cfg 0x20000000000001 (sig 0 64 false) = 0x4340000000000000#64 := by decide +kernel

/-- F2: -118.0 -/
theorem test_scale_negative : scale cfg 0xFFFFFFFFFFFFFF00 (sig 0 64 true 0x3FE0000000000000#64 0x4024000000000000#64) = 0xC05D800000000000#64 := by decide +kernel

/-- F14: 20.000000000000057 -/
theorem test_scale_temperature : scale cfg2 29315 (sig 0 16 false) = 0x4034000000000010#64 := by decide +kernel

/-- F15: 25.0 -/
theorem test_scale_noTemperature : scale cfg2 25 (sig 0 16 false) = 0x4039000000000000#64 := by decide +kernel

/-- N3 -/
theorem test_enumLookup : responseOf (exec (.enumLookup 0xFFFFFFFFFFFFFFFF (enumSig 0 8 true [(-1, [0x52])])) State.reset) = some (.ok (.enumText (some [0x52]))) := by decide

/-- N4 -/
theorem test_enumLookup_unsigned : responseOf (exec (.enumLookup 0xFF (enumSig 0 8 false [(-1, [0x52])])) State.reset) = some (.ok (.enumText none)) := by decide

/-- D17 -/
theorem test_decodeSignal_range : decodeSignal cfg2 [0x64] (sig 0 8 false) = .ok ⟨[0x73], [0x43], .numeric 0x4059000000000000#64, false⟩ := by decide +kernel

/-- D12 -/
theorem test_decodeSignal_sentinel : decodeSignal cfg [0xFA] (enumSig 0 8 false [(250, [0x45])]) = .ok ⟨[0x73], [0x43], .notAvailable, false⟩ := by decide

/-- D1 for the first signal, D8 folded (R132) for the second -/
theorem test_decodeMessage : decodeMessage cfg (msg 130900 [0xFF, 0x00]) = .ok (.message ⟨[0x44], [0x69], [⟨[0x61], [], .numeric 0xBFF0000000000000#64, true⟩, ⟨[0x62], [], .notAvailable, false⟩], true⟩) := by decide +kernel

/-- D21 -/
theorem test_decodeMessage_ignored : decodeMessage cfg (msg 65000 [1]) = .fail .noDecoder (some ⟨[], [], [], false⟩) := by decide

/-- K2 -/
theorem test_readU8_end : responseOf (exec (.readU8 [0xE8, 0x85, 0x01] 3) State.reset) = some (.fail .pastEnd none) := by decide

/-- K1 -/
theorem test_readU8 : responseOf (exec (.readU8 [0xE8, 0x85, 0x01] 2) State.reset) = some (.ok (.readU8 0x01 3)) := by decide

/-- K3 -/
theorem test_readU16 : responseOf (exec (.readU16 [0x34, 0x12] 0) State.reset) = some (.ok (.readU16 0x1234 2)) := by decide

/-- K5 -/
theorem test_readU32 : responseOf (exec (.readU32 [0x78, 0x56, 0x34, 0x12, 0xFF] 0) State.reset) = some (.ok (.readU32 0x12345678 4)) := by decide

/-- K10 -/
theorem test_readVarString : readVarString cfg2 [0x03, 0x41, 0x42, 0x43, 0xFF] 0 = .ok ([0x41, 0x42], 4) := by decide

/-- K9 -/
theorem test_readVarString_cut : readVarString cfg [0x05, 0x41, 0x42] 0 = .ok ([0x41, 0x42], 3) := by decide

/-- K13 -/
theorem test_splitBits : responseOf (exec (.splitBits 0xFD 2 6) State.reset) = some (.ok (.field 0x3F)) := by decide

/-- K19, with the name s_1 -/
theorem test_readRepeated : readRepeated cfg [0x02, 0x0A, 0x00, 0x14] 0 2 [sig 0 16 false] = .ok (2, [[⟨[0x73, 0x5F, 0x31], [0x43], .numeric 0x4024000000000000#64, true⟩]], 3) := by decide +kernel

/-- K20 -/
theorem test_writeU8 : responseOf (exec (.writeU8 [0x00, 0x00, 0x00] 2 0x01) State.reset) = some (.ok (.written [0x00, 0x00, 0x01] 3)) := by decide

/-- K21 -/
theorem test_writeU16 : responseOf (exec (.writeU16 (zeroFill 8) 5 1000) State.reset) = some (.ok (.written [0x00, 0x00, 0x00, 0x00, 0x00, 0xE8, 0x03, 0x00] 7)) := by decide

/-- K24 -/
theorem test_writeU24 : responseOf (exec (.writeU24 [0x00, 0x00, 0x00, 0x00] 1 0xAB01F214) State.reset) = some (.ok (.written [0x00, 0x14, 0xF2, 0x01] 4)) := by decide

/-- K23 -/
theorem test_writeU24_end : responseOf (exec (.writeU24 [0x00, 0x00, 0x00] 1 127508) State.reset) = some (.fail .pastEnd none) := by decide

/-- P5 and K19 under another PARSE_MIN_LEN and INDEX_NAME -/
theorem test_otherTables : (parseAs cfg3 .simpleAction [0xE8, 0x85, 0x01, 0x02, 0x01]).toOption = some (.simpleAction 2 1) ∧
    dec .prop [0xE8, 0x85, 0x01, 0x02, 0x01] = none ∧
    (decode cfg3 ⟨.prop, [0xE8, 0x85, 0x01, 0x02, 0x01]⟩).toOption = some (.simpleAction 2 1) ∧
    (decodeRecord cfg3 [0x0A, 0x00] [sig 0 16 false] 4).map (fun ds => ds.name) = [[0x04, 0x73]] := by decide

/-- s_10: D27, counting from 1 -/
theorem test_indexName : cfg.indexName [0x73] 9 = [0x73, 0x5F, 0x31, 0x30] := by decide

/-- I4 -/
theorem test_observe : nextOf (observe cfg (msg 130000 [0x07, 0x02, 0x00]) (seen 1) State.reset) =
    some { recs := [⟨130000, 0x10, 2, seen 1⟩], conf := [], pending := [], response := some (.ok (.updated true)) } := by rfl

/-- D28: T as the 256 values of one byte (log entry 13) -/
theorem test_timestamp_codes : (cfg.timestamp 5).val = 5 ∧ (cfg.timestamp 300).val = 0 ∧ (cfg.timestamp 0).val = 0 := by decide

/-- I5 -/
theorem test_observe_short : nextOf (observe cfg (msg 130000 [0x07]) (seen 1) State.reset) = some (State.reset.withResponse (.ok (.updated false))) := by decide

/-- I11 -/
theorem test_recompute : conflicts [⟨127508, 0x10, 0, seen 1⟩, ⟨127508, 0x20, 0, seen 1⟩, ⟨127508, 0x30, 1, seen 1⟩, ⟨127508, 0x40, 1, seen 1⟩] =
    [⟨127508, 0, [0x10, 0x20]⟩, ⟨127508, 1, [0x30, 0x40]⟩] := by decide

/-- I9 -/
theorem test_recompute_otherPgn : conflicts [⟨127508, 0x10, 0, seen 1⟩, ⟨130000, 0x20, 0, seen 1⟩] = [] := by decide

/-- I7 -/
theorem test_hasConflict : responseOf (exec (.hasConflict 0x10) conflicting) = some (.ok (.hasConflict true)) ∧
    responseOf (exec (.hasConflict 0x30) conflicting) = some (.ok (.hasConflict false)) := by decide

/-- I8 -/
theorem test_conflictsForPgn : responseOf (exec (.conflictsForPgn 130000) conflicting) = some (.ok (.conflicts [])) := by decide

/-- I12 -/
theorem test_clear : nextOf (exec .clear conflicting) = some (State.reset.withResponse (.ok .done)) := by decide

/-- P21, H8, H25 and G10, on their ports -/
theorem test_wireRows : responseOf (step (asked .prop [0xE8, 0x85, 0x05, 0x00, 0x00, 0x00])) = some (.fail (.unknownTag 5) none) ∧
    responseOf (step (asked .header [0xE8, 0x85])) = some (.ok (.headerFields 1512 4)) ∧
    responseOf (step (asked .busId [0x23, 0x14, 0xF2, 0x19])) = some (.ok (.id 0x19F21423)) ∧
    responseOf (step (asked (.groupFunction 127505) [0x02, 0x14, 0xF2, 0x01, 0x00, 0x02, 0x00, 0x00])) =
      some (.fail .wrongTargetPgn none) := by decide

/-! ## Witnesses: the hypotheses of the obligations can be met, each clause at a boundary of its range -/

theorem witness_DecodeInvertsEncode :
    (∀ t ∈ [PropTag.simpleAction, .stateInfo, .customHsb, .startPattern, .outputChannelPwm],
      (cfg.parseMinLen t).val ≤ builtLength t) ∧
    (Instr.wf (.gfCommand 0 0 0 (zeroFill 217)) = true ∧ Instr.wf .propHeader = true) ∧
    Instr.wf (.extractRaw [] 0 64) = true ∧ (encode cfg (.extractRaw [] 0 64)).port = .op := by decide +kernel

theorem witness_TruncatedRequestRefused :
    Instr.wf .clear = true ∧ (encode Config.current .clear).port = .op ∧
    0 < (encode Config.current .clear).bytes.length ∧
    (asked .op []).pending = ⟨.op, (encode Config.current .clear).bytes.take 0⟩ :: [] := by decide

theorem witness_BadFlagRefused :
    (2 : Byte) ≠ 0 ∧ (2 : Byte) ≠ 1 ∧ BeforeSignalDef (0x45 :: Codec.write64 7) ∧
    BeforeSignalDef (0x47 :: Codec.writeBytes [0xFF]) ∧
    BeforeSignalDef (0x56 :: (Codec.writeBytes [] ++ (Codec.writeNat 0 ++ (Codec.writeNat 0 ++ Codec.writeNat 1)))) :=
  ⟨by decide, by decide, .inr (.inl ⟨7, .inl rfl⟩), .inl ⟨[0xFF], .inr rfl⟩, .inr (.inr ⟨[], 0, 0, 0, rfl⟩)⟩

/-- 224 bytes; one header byte, the vendor's header and another; three identifier bytes, and both sides of bit 29. -/
theorem witness_WirePortsAnswerOrRefuse :
    223 < (zeroFill 224).length ∧ ([0xE8] : Bytes).length < 2 ∧ vendor [0xE8, 0x85] ∧ ¬ vendor [0xE8, 0x65] ∧
    ([0, 0, 0] : Bytes).length < 4 ∧ 2 ^ 29 ≤ numberAt [0, 0, 0, 0x20] 0 4 ∧
    numberAt [0xFF, 0xFF, 0xFF, 0x1F] 0 4 < 2 ^ 29 := by
  simp only [vendor, manufacturerOf, industryOf]; decide +kernel

theorem witness_StepRunsDecodedInstruction :
    (asked .op [0x63]).pending = ⟨.op, [0x63]⟩ :: [] ∧ decode Config.current ⟨.op, [0x63]⟩ = .ok .clear ∧
    Instr.wf .clear = true := ⟨rfl, rfl, rfl⟩

theorem witness_IdleStepAndUnknownOp :
    State.reset.pending = [] ∧ (asked .op [0x06]).pending = ⟨.op, 0x06 :: []⟩ :: [] ∧
    (0x06 : Byte).toNat ∉ opCodes := by decide

theorem witness_PropPortRefinesParseProprietary :
    (asked .prop (zeroFill 223)).pending = ⟨.prop, zeroFill 223⟩ :: [] ∧ (zeroFill 223).length ≤ 223 := by
  decide +kernel

theorem witness_GroupFunctionPortRefinesParseAck :
    (asked (.groupFunction 127508) (zeroFill 223)).pending = ⟨.groupFunction 127508, zeroFill 223⟩ :: [] ∧
    (zeroFill 223).length ≤ 223 := by decide +kernel

theorem witness_EveryRequestAnsweredOrOutOfContract :
    Instr.wf (.makeId 7 0 0 0) = true ∧ Instr.wf (.makeId 8 0 0 0) = false := by decide

theorem witness_OnlyDetectorOperationsTouchState :
    ∃ t, exec (.hasConflict 0x10) conflicting = .next t ∧ writesDetector (.hasConflict 0x10) = false :=
  ⟨_, rfl, rfl⟩

theorem witness_FailureChangesNoState :
    ∃ t f r, exec (.readU8 [] 0) conflicting = .next t ∧ t.response = some (.fail f r) := ⟨_, _, _, rfl, rfl⟩

theorem witness_OnlyListedFailuresReported :
    ∃ t, exec (.parseProprietary [0xE8, 0x85, 0x05]) conflicting = .next t ∧
      t.response = some (.fail (.unknownTag 5) none) := ⟨_, rfl, rfl⟩

theorem witness_StepKeepsDetectorConsistent :
    conflicting.consistent = true ∧
    ∃ t, step (conflicting.withPending [⟨.op, [0x62]⟩]) = .next t ∧ t.conf = conflicting.conf := ⟨by decide, _, rfl, by decide⟩

theorem witness_HeaderRoundTrips : (2047 : BitVec 16).toNat < 2048 ∧ (7 : Byte).toNat < 8 := by decide

theorem witness_MakeIdFields : (7 : Byte).toNat ≤ 7 := by decide

theorem vendor_iff (p : Bytes) : vendor p ↔ (manufacturerOf p = 1512 ∧ industryOf p = 4) := Iff.rfl

theorem witness_ValidityGate :
    (3 ≤ ([0xE8, 0x9D, 0x00] : Bytes).length ∧ vendor [0xE8, 0x9D, 0x00]) ∧
    (3 ≤ ([0xE8, 0xA5, 0x00] : Bytes).length ∧ ¬ vendor [0xE8, 0xA5, 0x00]) ∧
    ([0xE8, 0x85] : Bytes).length < 3 ∧ (zeroFill 223).length ≤ 223 := by
  simp only [vendor_iff]; decide +kernel

/-- For each parser: too short, wrong header, wrong tag, one byte below its minimum, and its minimum. -/
theorem witness_ParsersReadTheLayouts :
    ([0xE8, 0x85] : Bytes).length < 3 ∧ ¬ vendor [0xE9, 0x85, 0x01] ∧
    ∀ e ∈ ([(1, 6), (2, 7), (3, 8), (4, 6), (7, 7)] : List (Nat × Nat)),
      let short : Bytes := [0xE8, 0x85, BitVec.ofNat 8 e.1] ++ zeroFill (e.2 - 4)
      let least : Bytes := [0xE8, 0x85, BitVec.ofNat 8 e.1] ++ zeroFill (e.2 - 3)
      (vendor [0xE8, 0x85, 0x09] ∧ byteNat [0xE8, 0x85, 0x09] 2 ≠ e.1) ∧
      (3 ≤ short.length ∧ vendor short ∧ byteNat short 2 = e.1 ∧ short.length < e.2) ∧
      (3 ≤ least.length ∧ vendor least ∧ byteNat least 2 = e.1 ∧ e.2 ≤ least.length) := by
  simp only [vendor_iff]; decide

theorem witness_AtMostOneParserAccepts :
    exec (.parseSimpleAction [0xE8, 0x85, 0x01, 0x02, 0x01, 0x00]) State.reset =
      answers State.reset (.parsed (.simpleAction 2 1)) := rfl

theorem witness_ParseProprietaryDispatchesOnTag :
    ([0xE8, 0x85] : Bytes).length < 3 ∧ ¬ vendor [0xE9, 0x85, 0x01] ∧
    (∀ t ∈ ([1, 2, 3, 4, 7] : List Byte), vendor [0xE8, 0x85, t] ∧ byteNat [0xE8, 0x85, t] 2 = t.toNat) ∧
    (∀ t ∈ ([0, 5, 6, 8, 255] : List Byte),
      vendor [0xE8, 0x85, t] ∧ byteNat [0xE8, 0x85, t] 2 ∉ [1, 2, 3, 4, 7]) := by
  simp only [vendor_iff]; decide

theorem witness_WireRowsAnswered :
    1 ≤ (zeroFill 1).length ∧ (zeroFill 217).length ≤ 217 ∧
    (0xFFFFFF : BitVec 24).toNat ≠ (0xFFFFFFFE : Pgn).toNat % 2 ^ 24 ∧
    (0xFFFFFF : BitVec 24).toNat = (0xFFFFFFFF : Pgn).toNat % 2 ^ 24 := by decide +kernel

/-- 256 pairs; an empty value among 255; 224 bytes and 223 bytes of payload. -/
theorem witness_GfBuildCmdEnvelope :
    255 < (List.replicate 256 ((0, []) : Byte × Bytes)).length ∧
    ((List.replicate 255 ((0, []) : Byte × Bytes)).length ≤ 255 ∧
      ∃ e ∈ List.replicate 255 ((0, []) : Byte × Bytes), e.2 = []) ∧
    ((∀ e ∈ ([(0, zeroFill 217)] : List (Byte × Bytes)), e.2 ≠ []) ∧
      223 < 6 + (([(0, zeroFill 217)] : List (Byte × Bytes)).map (fun e => 1 + e.2.length)).sum) ∧
    ((∀ e ∈ ([(0, zeroFill 216)] : List (Byte × Bytes)), e.2 ≠ []) ∧
      6 + (([(0, zeroFill 216)] : List (Byte × Bytes)).map (fun e => 1 + e.2.length)).sum ≤ 223) := by
  decide +kernel

theorem witness_GfParseAckOutcome :
    ([2, 0x14, 0xF2, 1, 0, 2] : Bytes).length < 7 ∧ byteNat [1, 0, 0, 0, 0, 0, 0] 0 ≠ 2 ∧
    numberAt [2, 0, 0, 0, 0, 0, 0] 1 3 ≠ (1 : Pgn).toNat % 2 ^ 24 ∧
    (numberAt [2, 0x14, 0xF2, 1, 0, 0, 0] 1 3 = (0xFF01F214 : Pgn).toNat % 2 ^ 24 ∧
      byteNat [2, 0x14, 0xF2, 1, 0, 0, 0] 5 = 0) ∧
    (7 ≤ ([2, 0x14, 0xF2, 1, 0, 1, 0] : Bytes).length ∧ byteNat [2, 0x14, 0xF2, 1, 0, 1, 0] 0 = 2 ∧
      byteNat [2, 0x14, 0xF2, 1, 0, 1, 0] 5 ≠ 0) := by decide

theorem witness_ExtractRawClosedForm : (zeroFill 223).length ≤ 223 ∧ 1 ≤ 1 ∧ 1 ≤ 64 ∧ 64 ≤ 64 := by decide +kernel

theorem witness_SignExtendBits :
    1 ≤ 1 ∧ 64 ≤ 64 ∧ (0xFF : BitVec 64).toNat < 2 ^ 8 ∧ (0xFFFFFFFFFFFFFFFF : BitVec 64).toNat < 2 ^ 64 := by decide

theorem witness_ExtractComposes :
    ([] : Bytes).length ≤ 223 ∧ signalDefOk (sig 0 64 true) = true := by decide

theorem witness_ExtractIsInRange :
    ([] : Bytes).length ≤ 223 ∧ signalDefOk (sig 0 64 true) = true ∧ (sig 0 64 true).isSigned = true ∧
    signalDefOk (sig 0 1 false) = true ∧ (sig 0 1 false).isSigned = false := by decide

theorem witness_ExtractDependsOnFieldBitsOnly :
    (sig 4 12 true).startBit.toNat + (sig 4 12 true).bitLength ≤ 8 * ([0x05, 0xF0] : Bytes).length ∧
    signalDefOk (sig 4 12 true) = true ∧
    ∀ i, i < 12 → payloadBit [0x05, 0xF0] (4 + i) = payloadBit [0x0A, 0xF0, 0x77] (4 + i) := by decide

theorem witness_AvailabilityThresholds : 1 ≤ 8 ∧ 8 ≤ 64 ∧ 1 ≤ 64 ∧ 64 ≤ 64 := by decide

/-- The largest finite value, and sums below and at the overflow threshold. -/
theorem witness_ArithmeticCorrectlyRounded :
    finite 0x3FF0000000000000 ∧ finite 0x7FEFFFFFFFFFFFFF ∧ finite 0x7C90000000000000 ∧
    |valueOf 0x7FEFFFFFFFFFFFFF + valueOf 0x3FF0000000000000| < overflowUnits * (1 : Nat) ∧
    overflowUnits * (1 : Nat) ≤ |valueOf 0x7FEFFFFFFFFFFFFF + valueOf 0x7C90000000000000| := by
  simp only [finite]; decide +kernel

theorem witness_ArithmeticOnInfinitiesAndNaNs :
    isNaN 0x7FF0000000000001 ∧ infinite plusInfinity ∧ infinite minusInfinity ∧ plusInfinity ≠ minusInfinity ∧
    (finite 0x8000000000000000 ∧ valueOf 0x8000000000000000 = 0 ∧ negative 0x8000000000000000) ∧
    (finite 1 ∧ valueOf 1 ≠ 0 ∧ ¬ negative 1) := by
  simp only [isNaN, infinite, finite, negative]; decide +kernel

theorem witness_ScaleByOneIsNearestInteger :
    signalDefOk (sig 0 64 true) = true ∧ cfg.toOpenConfig.tempFix.isNone = true ∧
    (sig 0 64 true).scale = 0x3FF0000000000000#64 ∧ (sig 0 64 true).offset = 0#64 := by decide

/-- No correction configured; configured and above the threshold; configured and not above it; another unit. -/
theorem witness_ScaleSteps :
    signalDefOk (sig 0 16 false) = true ∧ cfg.tempFix.isNone = true ∧
    cfg2.tempFix = some (0x408F400000000000, fun u => u == [0x43]) ∧
    (([0x43] : Text) == (sig 0 16 false).unit) = true ∧
    cfg2.f64.lt 0x408F400000000000 (scale cfg 29315 (sig 0 16 false)) = true ∧
    cfg2.f64.lt 0x408F400000000000 (scale cfg 1000 (sig 0 16 false)) = false ∧
    (([0x43] : Text) == { sig 0 16 false with unit := [0x4B] }.unit) = false :=
  ⟨by decide, rfl, rfl, by decide, by decide +kernel, by decide +kernel, by decide⟩

theorem witness_EnumLookupIsTheTable :
    signalDefOk (enumSig 0 8 true [(-1, [0x52]), (0, [0x46])]) = true := by decide

theorem witness_DecodeSignalComposes :
    signalDefOk (sig 16 1 false) = true ∧
    8 * ([0x00, 0x80] : Bytes).length < (sig 16 1 false).startBit.toNat + (sig 16 1 false).bitLength ∧
    signalDefOk (sig 15 1 false) = true ∧
    (sig 15 1 false).startBit.toNat + (sig 15 1 false).bitLength ≤ 8 * ([0x00, 0x80] : Bytes).length := by decide

theorem witness_NotAvailableExactlyOnSentinels :
    signalDefOk (sig 0 8 false) = true ∧
    (sig 0 8 false).startBit.toNat + (sig 0 8 false).bitLength ≤ 8 * ([0xFA] : Bytes).length := by decide

/-- An ignored PGN, one without a decoder, a specialised one, and a schema with one byte too few and with enough. -/
theorem witness_DecodeMessageOutcome :
    messageOk (msg 130900 [0xFF, 0x00]) = true ∧ signalDefOk (sig 0 8 false) = true ∧
    65000 ∈ cfg.ignorePgns ∧ (cfg.decoder 7).isNone = true ∧
    (130900 ∉ cfg.ignorePgns ∧ 130901 ∉ cfg.ignorePgns) ∧
    (∃ f, cfg.decoder 130901 = some (.special f)) ∧
    ∃ sch, cfg.decoder 130900 = some (.generic sch) ∧ ([0xFF] : Bytes).length < sch.minLen ∧
      sch.minLen ≤ ([0xFF, 0x00] : Bytes).length :=
  ⟨by decide, by decide, by decide, by decide, by decide, ⟨_, rfl⟩, ⟨_, rfl, by decide, by decide⟩⟩

theorem witness_CursorReads :
    ∀ n ∈ [1, 2, 4], (zeroFill 223).length ≤ 223 ∧ (223 - n) + n ≤ (zeroFill 223).length ∧
      (zeroFill 223).length < (224 - n) + n ∧ 224 - n ≤ (zeroFill 223).length := by decide +kernel

theorem witness_VarStringBounded :
    ([0x41] : Bytes).length = 1 ∧ 1 ≤ ([0x41] : Bytes).length ∧ 0 < ([0x41] : Bytes).length := by decide

theorem witness_SplitBitsIsExtraction : (1 ≤ 8 ∧ 0 + 8 ≤ 8) ∧ 1 ≤ 1 ∧ 7 + 1 ≤ 8 := by decide

theorem witness_ReadRepeatedRecords :
    ([0x02, 0x0A, 0x00, 0x14] : Bytes).length ≤ 223 ∧ 0 < ([0x02, 0x0A, 0x00, 0x14] : Bytes).length ∧ 1 ≤ 1 ∧
    ([0x02] : Bytes).length = 1 ∧ (∀ sd ∈ [sig 0 16 false], signalDefOk sd = true) := by decide

theorem witness_CursorWrites :
    ∀ n ∈ [1, 2, 3], (zeroFill 223).length ≤ 223 ∧ (223 - n) + n ≤ (zeroFill 223).length ∧
      (zeroFill 223).length < (224 - n) + n ∧ 224 - n ≤ (zeroFill 223).length := by decide +kernel

theorem witness_ReadAfterWrite :
    (zeroFill 223).length ≤ 223 ∧ 222 + 1 ≤ (zeroFill 223).length ∧ 221 + 2 ≤ (zeroFill 223).length ∧
    220 + 3 ≤ (zeroFill 223).length := by decide +kernel

/-- No allow-list entry; offset 0 and offset 1, each with one byte too few and with enough. -/
theorem witness_ObserveUpserts :
    messageOk (msg 127508 [0]) = true ∧ cfg.instanceOffset 59904 = none ∧
    (cfg.instanceOffset 127508 = some 0 ∧ ([] : Bytes).length ≤ 0 ∧ 0 < ([0] : Bytes).length) ∧
    (cfg.instanceOffset 130000 = some 1 ∧ ([7] : Bytes).length ≤ 1 ∧ 1 < ([7, 2] : Bytes).length) ∧
    ((127508, 0x20) : Pgn × Byte) ≠ (127508, 0x10) := by decide

theorem witness_RecomputeGroupsByInstance :
    ∃ r ∈ conflicting.recs, ∃ q ∈ conflicting.recs, r.pgn = q.pgn ∧ r.inst = q.inst ∧ r.source ≠ q.source := by decide

theorem witness_HasConflictIsMembership : conflicting.consistent = true := by decide

theorem witness_RecomputeIsIdempotent : conflicting.consistent = true := by decide

/-- Two observations of different keys in the two orders, from states that differ in last_seen. -/
theorem witness_ConflictsIgnoreObservationOrder :
    let a : Observation := (⟨127508, 6, 0x10, 255, [0], 0⟩, seen 1)
    let b : Observation := (⟨127508, 6, 0x20, 255, [0], 0⟩, seen 2)
    let later : State := { conflicting with recs := [⟨127508, 0x10, 0, seen 5⟩, ⟨127508, 0x20, 0, seen 6⟩] }
    conflicting.consistent = true ∧ later.consistent = true ∧ observedRecords conflicting = observedRecords later ∧
    (∀ o ∈ [a, b], messageOk o.1 = true) ∧ (∀ o ∈ [b, a], messageOk o.1 = true) ∧
    ∀ (g : Pgn) (x : Byte), lastInstance g x [a, b] = lastInstance g x [b, a] := by
  refine ⟨by decide, by decide, by decide, by decide, by decide, fun g x => ?_⟩
  simp [lastInstance, Config.instanceOffset]
  split_ifs <;> rfl

theorem witness_RecordsPersistUntilClear :
    ∃ t, exec .recomputeConflicts conflicting = .next t ∧ Instr.recomputeConflicts ≠ .clear ∧
      (recLookup conflicting.recs 127508 0x10).isSome = true := ⟨_, rfl, by decide, by decide⟩


end Sys2Proof.Tests
end

/-! # What a request comes to (00_scope.md)

The step, the answer of every instruction, operation requests cut short or with a bad flag, and the wire ports. -/

namespace Sys2Proof.Proofs
open Sys2Proof Sys2Proof.Machine Sys2Proof.Codec Sys2Proof.Spec

/-! ## The step -/

section Step

variable {s : State} {q : Request} {rest : List Request}

theorem fetch_of_pending (h : s.pending = q :: rest) : fetch s = some (q, s.withPending rest) := by
  simp only [fetch, h]

theorem step_of_decode_ok {i : Instr} (h : s.pending = q :: rest) (hd : decode Config.current q = .ok i) :
    step s = exec i (s.withPending rest) := by
  simp only [step, fetch_of_pending h, hd]

theorem step_of_decode_error {r : Reject} (h : s.pending = q :: rest) (hd : decode Config.current q = .error r) :
    step s = answerReject r (s.withPending rest) := by
  simp only [step, fetch_of_pending h, hd]

end Step

/-- Settles O3: the step's two branches, fetch and decode, are both decided by the hypotheses. -/
theorem stepRunsDecodedInstruction : Obligations.StepRunsDecodedInstruction := by
  unfold Obligations.StepRunsDecodedInstruction
  intro s q rest i hp hd
  exact step_of_decode_ok hp hd

/-! ## What an instruction can do -/

/-- The payload a bare GF_COMMAND stands for is a payload exactly when its pairs' bytes leave room for the envelope. -/
theorem payloadOk_gfCommand (f priority count : Byte) (target : BitVec 24) (pairBytes : Bytes) :
    payloadOk (f :: (leBytes 3 target.toNat ++ priority :: count :: pairBytes)) = pairBytesOk pairBytes := by
  simp only [payloadOk, pairBytesOk, List.length_cons, List.length_append, leBytes_length]
  congr 2
  omega

/-- An operation that writes no detector state answers on the state it was given, or is outside the contract. -/
theorem exec_of_not_writesDetector (i : Instr) (s : State) (h : writesDetector i = false) :
    ∃ r, exec i s = answerIf i.wf s r := by
  cases i with
  | observe | recomputeConflicts | clear => cases h
  | gfCommand target priority count pairBytes =>
    exact ⟨_, congrArg (answerIf · s _) (payloadOk_gfCommand _ priority count target pairBytes)⟩
  | _ => exact ⟨_, rfl⟩

/-- OBSERVE's state differs from the one before it in the detector alone. -/
theorem observed_eq_withDetector (cfg : Config) (m : Message) (now : Timestamp) (s : State) :
    ∃ recs conf, observed cfg m now s = s.withDetector recs conf := by
  unfold observed
  cases observedInstance cfg m with
  | none => exact ⟨s.recs, s.conf, rfl⟩
  | some inst => exact ⟨_, _, rfl⟩

/-- All that an instruction can do: answer with REC and CONF possibly rewritten, or be outside the contract. -/
theorem exec_eq_answerIf (i : Instr) (s : State) :
    ∃ recs conf r, exec i s = answerIf i.wf (s.withDetector recs conf) r := by
  cases h : writesDetector i with
  | false =>
    obtain ⟨r, hr⟩ := exec_of_not_writesDetector i s h
    exact ⟨s.recs, s.conf, r, hr⟩
  | true =>
    cases i with
    | observe m now =>
      obtain ⟨recs, conf, ho⟩ := observed_eq_withDetector Config.current m now s
      exact ⟨recs, conf, _, congrArg (answerIf (messageOk m) · _) ho⟩
    | recomputeConflicts | clear => exact ⟨_, _, _, rfl⟩
    | _ => cases h

/-- Settles O10: `exec_eq_answerIf` within and outside the contract. -/
theorem everyRequestAnsweredOrOutOfContract : Obligations.EveryRequestAnsweredOrOutOfContract := by
  unfold Obligations.EveryRequestAnsweredOrOutOfContract
  intro i s
  obtain ⟨recs, conf, r, he⟩ := exec_eq_answerIf i s
  constructor
  · intro hwf
    exact ⟨_, r, he.trans (answerIf_of hwf), rfl, rfl⟩
  · intro hwf
    rw [he, hwf]
    rfl

/-- Settles O11: outside the detector's writers `exec` is `answerIf` on the state itself, and `answerIf` changes the
response alone. -/
theorem onlyDetectorOperationsTouchState : Obligations.OnlyDetectorOperationsTouchState := by
  unfold Obligations.OnlyDetectorOperationsTouchState
  intro i s t h hw
  obtain ⟨r, hr⟩ := exec_of_not_writesDetector i s hw
  exact ⟨r, (answerIf_next (hr ▸ h)).2⟩


/-! ## Requests cut short -/

section Cut

variable {α β γ δ ε ζ : Type}

/-- Whatever proper initial part of `w` it is given, `f` refuses it as truncated. -/
def Cut (f : Bytes → Except Reject β) (w : Bytes) : Prop :=
  ∀ k < w.length, f (w.take k) = .error .truncated

/-- `w` is the byte form of `x` under the reader `r`: read as `x` whatever follows it, and truncated when cut short. -/
structure Codes (r : Reader α) (w : Bytes) (x : α) : Prop where
  read : ∀ rest, r (w ++ rest) = .ok (x, rest)
  cut : Cut r w

variable {a : Reader α} {b : Reader β} {c : Reader γ} {d : Reader δ} {e : Reader ε}
variable {wa wb wc wd we : Bytes} {x : α} {y : β} {z : γ} {u : δ}

/-- What is read after the last operand does not matter. -/
theorem Cut.bind {f : α × Bytes → Except Reject β} (ha : Cut a wa) : Cut (fun bs => a bs >>= f) wa := by
  intro k hk
  simp only [ha k hk]
  rfl

theorem Cut.map {f : α → β} {r : Bytes → Except Reject α} (hr : Cut r wa) : Cut (fun bs => (r bs).map f) wa := by
  intro k hk
  simp only [hr k hk]
  rfl

/-- Two byte forms cut short are cut in the first, or after it in the second. -/
theorem Codes.cut_bind {f : α × Bytes → Except Reject β} (ha : Codes a wa x) (hf : Cut (fun bs => f (x, bs)) wb) :
    Cut (fun bs => a bs >>= f) (wa ++ wb) := by
  intro k hk
  rcases Nat.lt_or_ge k wa.length with hka | hka
  · rw [List.take_append_of_le_length hka.le]
    exact ha.cut.bind k hka
  · obtain ⟨j, rfl⟩ := Nat.exists_eq_add_of_le hka
    rw [List.length_append] at hk
    simp only [List.take_length_add_append, ha.read]
    exact hf j (by omega)

theorem cut_instr1 {mk : α → Instr} (ha : Cut a wa) : Cut (instr1 a mk) wa :=
  ha.bind

theorem cut_instr2 {mk : α → β → Instr} (ha : Codes a wa x) (hb : Cut b wb) : Cut (instr2 a b mk) (wa ++ wb) :=
  ha.cut_bind (cut_instr1 hb)

theorem cut_instr3 {mk : α → β → γ → Instr} (ha : Codes a wa x) (hb : Codes b wb y) (hc : Cut c wc) :
    Cut (instr3 a b c mk) (wa ++ (wb ++ wc)) :=
  ha.cut_bind (cut_instr2 hb hc)

theorem cut_instr4 {mk : α → β → γ → δ → Instr} (ha : Codes a wa x) (hb : Codes b wb y) (hc : Codes c wc z)
    (hd : Cut d wd) : Cut (instr4 a b c d mk) (wa ++ (wb ++ (wc ++ wd))) :=
  ha.cut_bind (cut_instr3 hb hc hd)

theorem cut_instr5 {mk : α → β → γ → δ → ε → Instr} (ha : Codes a wa x) (hb : Codes b wb y) (hc : Codes c wc z)
    (hd : Codes d wd u) (he : Cut e we) : Cut (instr5 a b c d e mk) (wa ++ (wb ++ (wc ++ (wd ++ we)))) :=
  ha.cut_bind (cut_instr4 hb hc hd he)

end Cut

/-! ### One byte form per operand -/

theorem codes_byte (b : Byte) : Codes readByte [b] b where
  read _ := rfl
  cut k hk := by
    obtain rfl : k = 0 := Nat.lt_one_iff.1 hk
    rfl

theorem cut_readWord (n v : Nat) : Cut (readWord n) (leBytes n v) := by
  intro k hk
  rw [leBytes_length] at hk
  exact if_pos (by simpa using hk)

theorem codes_write16 (v : BitVec 16) : Codes read16 (write16 v) v :=
  ⟨read16_write16 v, (cut_readWord 2 _).map⟩

theorem codes_write32 (v : BitVec 32) : Codes read32 (write32 v) v :=
  ⟨read32_write32 v, (cut_readWord 4 _).map⟩

theorem codes_write64 (v : BitVec 64) : Codes read64 (write64 v) v :=
  ⟨read64_write64 v, (cut_readWord 8 _).map⟩

theorem codes_writeBool (b : Bool) : Codes readBool (writeBool b) b where
  read := readBool_writeBool b
  cut k hk := by
    obtain rfl : k = 0 := Nat.lt_one_iff.1 hk
    rfl

/-- Every digit but the last announces another one. -/
theorem cut_writeNatFuel (fuel n : Nat) : Cut readNat (writeNatFuel fuel n) := by
  induction fuel generalizing n with
  | zero =>
    intro k hk
    obtain rfl : k = 0 := Nat.lt_one_iff.1 hk
    rfl
  | succ fuel ih =>
    intro k hk
    cases k with
    | zero => rfl
    | succ k =>
      unfold writeNatFuel at hk ⊢
      split at hk
      · simp at hk
      · next hn =>
        have hdigit : ¬ (BitVec.ofNat 8 (n % 128 + 128)).toNat < 128 := by simp; omega
        rw [if_neg hn, List.take_succ_cons, readNat, if_neg hdigit, ih _ k (Nat.lt_of_succ_lt_succ hk)]
        rfl

theorem codes_writeNat (n : Nat) : Codes readNat (writeNat n) n :=
  ⟨readNat_writeNat n, cut_writeNatFuel _ n⟩

/-- Any byte is a count, of one more than its number. -/
theorem codes_countByte (n : Byte) : Codes readCount [n] (n.toNat + 1) :=
  ⟨fun _ => rfl, (codes_byte n).cut.map⟩

theorem cut_writeCount (n : Nat) : Cut readCount (writeCount n) :=
  (codes_countByte _).cut

theorem codes_writeCount {n : Nat} (h : 1 ≤ n) (h' : n ≤ 256) : Codes readCount (writeCount n) n :=
  ⟨readCount_writeCount n h h', cut_writeCount n⟩

theorem cut_writeTimestamp (t : Timestamp) : Cut readTimestamp (writeNat t.val) :=
  (codes_writeNat _).cut.map

theorem codes_writeInt (v : Int) : Codes readInt (writeInt v) v :=
  ⟨readInt_writeInt v, (codes_writeNat _).cut.map⟩

theorem codes_writeBytes (p : Bytes) : Codes readBytes (writeBytes p) p where
  read := readBytes_writeBytes p
  cut := (codes_writeNat _).cut_bind fun k hk => if_pos (by simpa using hk)

section Sequences

variable {α : Type} {r : Reader α} {w : α → Bytes}

theorem cut_readMany {xs : List α} (h : ∀ x ∈ xs, Codes r (w x) x) : Cut (readMany r xs.length) (xs.flatMap w) := by
  induction xs with
  | nil => exact fun k hk => absurd hk (Nat.not_lt_zero k)
  | cons x xs ih =>
    rw [List.forall_mem_cons] at h
    exact h.1.cut_bind (ih h.2).bind

theorem codes_writeList {xs : List α} (h : ∀ x ∈ xs, Codes r (w x) x) : Codes (readList r) (writeList w xs) xs where
  read rest := readList_writeList r w xs rest fun x hx => (h x hx).read
  cut := (codes_writeNat _).cut_bind (cut_readMany h)

end Sequences

theorem codes_writeEnumEntry (e : Int × Text) : Codes readEnumEntry (writeEnumEntry e) e where
  read := readEnumEntry_writeEnumEntry e
  cut := (codes_writeInt e.1).cut_bind (codes_writeBytes e.2).cut.bind

theorem codes_writeEnumTable (t : Option (List (Int × Text))) : Codes readEnumTable (writeEnumTable t) t where
  read := readEnumTable_writeEnumTable t
  cut := by
    cases t with
    | none => exact (codes_writeBool false).cut.bind
    | some t =>
      exact (codes_writeBool true).cut_bind (codes_writeList fun e _ => codes_writeEnumEntry e).cut.bind

/-- A width within the contract has a byte form. -/
theorem codes_bitLength {n : Nat} (h : bitLengthOk n = true) : Codes readCount (writeCount n) n := by
  simp only [bitLengthOk, Bool.and_eq_true, decide_eq_true_eq] at h
  exact codes_writeCount h.1 (by omega)

theorem codes_writeSignalDef {sd : SignalDef} (h : signalDefOk sd = true) :
    Codes readSignalDef (writeSignalDef sd) sd where
  read := readSignalDef_writeSignalDef sd h
  cut := by
    have hlen := codes_bitLength (Bool.and_eq_true_iff.1 h).1
    exact (codes_writeBytes _).cut_bind <| (codes_write32 _).cut_bind <| hlen.cut_bind <|
      (codes_writeBool _).cut_bind <| (codes_write64 _).cut_bind <| (codes_write64 _).cut_bind <|
      (codes_write64 _).cut_bind <| (codes_write64 _).cut_bind <| (codes_writeBytes _).cut_bind
      (codes_writeEnumTable _).cut.bind

theorem codes_writeMessage (m : Message) : Codes readMessage (writeMessage m) m where
  read := readMessage_writeMessage m
  cut :=
    (codes_write32 _).cut_bind <| (codes_byte m.priority).cut_bind <| (codes_byte m.source).cut_bind <|
      (codes_byte m.destination).cut_bind <| (codes_writeBytes _).cut_bind (codes_writeNat _).cut.bind

theorem codes_writePair (e : Byte × Bytes) : Codes readPair (writePair e) e where
  read := readPair_writePair e
  cut := (codes_byte e.1).cut_bind (codes_writeBytes e.2).cut.bind

/-! ### Operation requests -/

/-- The select byte is an operand like the others. -/
theorem cut_decodeOp {op : Byte} {operands : Bytes} (h : Cut (decodeOperands op) operands) :
    Cut decodeOp (op :: operands) := by
  intro k hk
  cases k with
  | zero => rfl
  | succ k => exact h k (Nat.lt_of_succ_lt_succ hk)

/-- A well-formed operation's request, cut short anywhere, is truncated. -/
theorem cut_decodeOp_encode (cfg : Config) (i : Instr) (hwf : i.wf = true) (hop : (encode cfg i).port = .op) :
    Cut decodeOp (encode cfg i).bytes := by
  cases i with
  | simpleAction | stateInfo | customHsb | startPattern | outputChannelPwm | gfCommand | gfAck | propHeader | busId =>
    cases hop
  | packHdr m n => exact cut_decodeOp (cut_instr2 (codes_write16 m) (codes_byte n).cut)
  | unpackHdr b0 b1 => exact cut_decodeOp (cut_instr2 (codes_byte b0) (codes_byte b1).cut)
  | makeId prio pgn src dest =>
    exact cut_decodeOp (cut_instr4 (codes_byte prio) (codes_write32 pgn) (codes_byte src) (codes_byte dest).cut)
  | isValid p | getPropId p | parseProprietary p | parseSimpleAction p | parseStateInfo p | parseCustomHsb p
  | parseStartPattern p | parseOutputChannelPwm p =>
    exact cut_decodeOp (cut_instr1 (codes_writeBytes p).cut)
  | createSimpleAction dest src action switch =>
    exact cut_decodeOp (cut_instr4 (codes_byte dest) (codes_byte src) (codes_byte action) (codes_byte switch).cut)
  | createStateInfo dest src switch state type =>
    exact cut_decodeOp (cut_instr5 (codes_byte dest) (codes_byte src) (codes_byte switch) (codes_byte state)
      (codes_byte type).cut)
  | createCustomHsb dest src action switch hue sat bright =>
    exact cut_decodeOp ((codes_byte dest).cut_bind ((codes_byte src).cut_bind (cut_instr5 (codes_byte action)
      (codes_byte switch) (codes_byte hue) (codes_byte sat) (codes_byte bright).cut)))
  | createStartPattern dest src switch pattern =>
    exact cut_decodeOp (cut_instr4 (codes_byte dest) (codes_byte src) (codes_byte switch) (codes_byte pattern).cut)
  | createOutputChannelPwm dest src channel duty time =>
    exact cut_decodeOp (cut_instr5 (codes_byte dest) (codes_byte src) (codes_byte channel) (codes_byte duty)
      (codes_write16 time).cut)
  | gfBuildCmd pgn prio pairs =>
    exact cut_decodeOp (cut_instr3 (codes_write32 pgn) (codes_byte prio)
      (codes_writeList fun e _ => codes_writePair e).cut)
  | gfParseAck p pgn => exact cut_decodeOp (cut_instr2 (codes_writeBytes p) (codes_write32 pgn).cut)
  | extractRaw p start n =>
    exact cut_decodeOp (cut_instr3 (codes_writeBytes p) (codes_write32 start) (cut_writeCount n))
  | signExtend raw n signed | checkAvailable raw n signed =>
    exact cut_decodeOp (cut_instr3 (codes_write64 raw) (codes_bitLength hwf) (codes_writeBool signed).cut)
  | extract p sd | decodeSignal p sd =>
    have hsd : signalDefOk sd = true := (Bool.and_eq_true_iff.1 hwf).2
    exact cut_decodeOp (cut_instr2 (codes_writeBytes p) (codes_writeSignalDef hsd).cut)
  | scale raw sd | enumLookup raw sd =>
    exact cut_decodeOp (cut_instr2 (codes_write64 raw) (codes_writeSignalDef hwf).cut)
  | decodeMessage m => exact cut_decodeOp (cut_instr1 (codes_writeMessage m).cut)
  | readU8 p cur | readU16 p cur | readU32 p cur | readVarString p cur =>
    exact cut_decodeOp (cut_instr2 (codes_writeBytes p) (codes_writeNat cur).cut)
  | splitBits byte lo width =>
    exact cut_decodeOp (cut_instr3 (codes_byte byte) (codes_writeNat lo) (cut_writeCount width))
  | readRepeated p cur recSize fields =>
    have hfields : ∀ sd ∈ fields, signalDefOk sd = true := List.all_eq_true.1 (Bool.and_eq_true_iff.1 hwf).2
    exact cut_decodeOp (cut_instr4 (mk := fun p cur sizePred fields => .readRepeated p cur (sizePred + 1) fields)
      (codes_writeBytes p) (codes_writeNat cur) (codes_writeNat (recSize - 1))
      (codes_writeList fun sd hsd => codes_writeSignalDef (hfields sd hsd)).cut)
  | writeU8 p cur v => exact cut_decodeOp (cut_instr3 (codes_writeBytes p) (codes_writeNat cur) (codes_byte v).cut)
  | writeU16 p cur v =>
    exact cut_decodeOp (cut_instr3 (codes_writeBytes p) (codes_writeNat cur) (codes_write16 v).cut)
  | writeU24 p cur v =>
    exact cut_decodeOp (cut_instr3 (codes_writeBytes p) (codes_writeNat cur) (codes_write32 v).cut)
  | observe m now => exact cut_decodeOp (cut_instr2 (codes_writeMessage m) (cut_writeTimestamp now))
  | recomputeConflicts | clear =>
    exact cut_decodeOp fun k hk => absurd hk (Nat.not_lt_zero k)
  | hasConflict src => exact cut_decodeOp (cut_instr1 (codes_byte src).cut)
  | conflictsForPgn pgn => exact cut_decodeOp (cut_instr1 (codes_write32 pgn).cut)

/-- Settles O5: the request's bytes are the byte forms of the operands one after another, and a cut falls inside one
of them. -/
theorem truncatedRequestRefused : Obligations.TruncatedRequestRefused := by
  unfold Obligations.TruncatedRequestRefused
  intro s i rest k hwf hop hk hp
  have hcut : decodeOp ((encode Config.current i).bytes.take k) = .error .truncated :=
    cut_decodeOp_encode Config.current i hwf hop k hk
  exact step_of_decode_error hp hcut

/-! ## Flags that are neither 0 nor 1 -/

section Rejected

variable {α β γ δ : Type} {a : Reader α} {b : Reader β} {c : Reader γ} {d : Reader δ}
variable {wa wb wc bs : Bytes} {x : α} {y : β} {z : γ} {r : Reject}

/-- What the reader after a complete operand rejects, the whole rejects. -/
theorem Codes.bind_error {f : α × Bytes → Except Reject β} (ha : Codes a wa x) (h : f (x, bs) = .error r) :
    (a (wa ++ bs) >>= f) = .error r := by
  rw [ha.read]
  exact h

theorem bind_error {f : α × Bytes → Except Reject β} (h : a bs = .error r) : (a bs >>= f) = .error r := by
  rw [h]
  rfl

theorem instr1_error {mk : α → Instr} (h : a bs = .error r) : instr1 a mk bs = .error r :=
  bind_error h

theorem instr2_error {mk : α → β → Instr} (ha : Codes a wa x) (h : b bs = .error r) :
    instr2 a b mk (wa ++ bs) = .error r :=
  ha.bind_error (instr1_error h)

theorem instr3_error {mk : α → β → γ → Instr} (ha : Codes a wa x) (hb : Codes b wb y) (h : c bs = .error r) :
    instr3 a b c mk (wa ++ (wb ++ bs)) = .error r :=
  ha.bind_error (instr2_error hb h)

theorem instr4_error {mk : α → β → γ → δ → Instr} (ha : Codes a wa x) (hb : Codes b wb y) (hc : Codes c wc z)
    (h : d bs = .error r) : instr4 a b c d mk (wa ++ (wb ++ (wc ++ bs))) = .error r :=
  ha.bind_error (instr3_error hb hc h)

/-- A list that announces an entry is rejected when its first entry is. -/
theorem readList_error (more : Nat) (h : a bs = .error r) : readList a (writeNat (more + 1) ++ bs) = .error r := by
  refine (codes_writeNat (more + 1)).bind_error ?_
  show readMany a (more + 1) bs = .error r
  rw [readMany, h]
  rfl

end Rejected

section BadFlag

variable {b : Byte} (h0 : b ≠ 0) (h1 : b ≠ 1) (more : Bytes)

include h0 h1

theorem readBool_badFlag : readBool (b :: more) = .error (.badFlag b) := by
  rw [readBool, if_neg h0, if_neg h1]

theorem readEnumTable_badFlag : readEnumTable (b :: more) = .error (.badFlag b) :=
  bind_error (readBool_badFlag h0 h1 more)

theorem readSignalDef_badSignedness (name : Text) (start : BitVec 32) (n : Byte) :
    readSignalDef (writeBytes name ++ (write32 start ++ n :: b :: more)) = .error (.badFlag b) := by
  exact (codes_writeBytes name).bind_error <| (codes_write32 start).bind_error <| (codes_countByte n).bind_error <|
    bind_error (readBool_badFlag h0 h1 more)

theorem readSignalDef_badTableFlag (name unit : Text) (start : BitVec 32) (n : Byte) (signed : Bool)
    (scale offset minVal maxVal : F64) :
    readSignalDef (writeBytes name ++ (write32 start ++ n :: (writeBool signed ++ (write64 scale ++
      (write64 offset ++ (write64 minVal ++ (write64 maxVal ++ (writeBytes unit ++ b :: more)))))))) =
      .error (.badFlag b) := by
  exact (codes_writeBytes name).bind_error <| (codes_write32 start).bind_error <| (codes_countByte n).bind_error <|
    (codes_writeBool signed).bind_error <| (codes_write64 scale).bind_error <| (codes_write64 offset).bind_error <|
    (codes_write64 minVal).bind_error <| (codes_write64 maxVal).bind_error <| (codes_writeBytes unit).bind_error <|
    bind_error (readEnumTable_badFlag h0 h1 more)

end BadFlag

/-- What `readSignalDef` rejects, each operation rejects whose next operand is a SignalDef. -/
theorem decodeOp_of_readSignalDef_error {before bs : Bytes} {r : Reject} (hb : BeforeSignalDef before)
    (h : readSignalDef bs = .error r) : decodeOp (before ++ bs) = .error r := by
  rcases hb with ⟨p, rfl | rfl⟩ | ⟨raw, rfl | rfl⟩ | ⟨p, cur, sizePred, more, rfl⟩
  · exact instr2_error (codes_writeBytes p) h
  · exact instr2_error (codes_writeBytes p) h
  · exact instr2_error (codes_write64 raw) h
  · exact instr2_error (codes_write64 raw) h
  · simp only [List.cons_append, List.append_assoc]
    exact instr4_error (mk := fun p cur sizePred fields => .readRepeated p cur (sizePred + 1) fields)
      (codes_writeBytes p) (codes_writeNat cur) (codes_writeNat sizePred) (readList_error more h)

/-- Settles O6: the operands before the flag read back as written, and `readBool` rejects the flag by name. -/
theorem badFlagRefused : Obligations.BadFlagRefused := by
  unfold Obligations.BadFlagRefused
  intro s rest b more h0 h1
  refine ⟨?signExtendOrAvailable, ?signedness, ?tableFlag⟩
  case signExtendOrAvailable =>
    intro op raw n hop hp
    have hflag := readBool_badFlag h0 h1 more
    have hdec : decodeOp (op :: (write64 raw ++ n :: b :: more)) = .error (.badFlag b) := by
      rcases hop with rfl | rfl
      · show instr3 read64 readCount readBool .signExtend (write64 raw ++ ([n] ++ b :: more)) = _
        exact instr3_error (codes_write64 raw) (codes_countByte n) hflag
      · show instr3 read64 readCount readBool .checkAvailable (write64 raw ++ ([n] ++ b :: more)) = _
        exact instr3_error (codes_write64 raw) (codes_countByte n) hflag
    exact step_of_decode_error hp hdec
  case signedness =>
    intro before name start n hb hp
    have hdec := decodeOp_of_readSignalDef_error hb (readSignalDef_badSignedness h0 h1 more name start n)
    exact step_of_decode_error hp hdec
  case tableFlag =>
    intro before name unit start n signed scale offset minVal maxVal hb hp
    have hdec := decodeOp_of_readSignalDef_error hb
      (readSignalDef_badTableFlag h0 h1 more name unit start n signed scale offset minVal maxVal)
    exact step_of_decode_error hp hdec

/-! ## The wire ports -/

theorem not_payloadOk {p : Bytes} (h : 223 < p.length) : ¬ payloadOk p = true :=
  fun hok => Nat.not_le.2 h (of_decide_eq_true hok)

theorem decodeProp_tooLong (cfg : Config) {p : Bytes} (h : 223 < p.length) :
    decodeProp cfg p = .error .tooLongPayload :=
  if_neg (not_payloadOk h)

theorem decodeGroupFunction_tooLong (cfg : Config) (expected : Pgn) {p : Bytes} (h : 223 < p.length) :
    decodeGroupFunction cfg expected p = .error .tooLongPayload :=
  if_neg (not_payloadOk h)

theorem toNat_append_byte {n : Nat} (hi : BitVec n) (lo : Byte) :
    (hi ++ lo).toNat = lo.toNat + 256 * hi.toNat := by
  rw [BitVec.toNat_append, ← Nat.shiftLeft_add_eq_or_of_lt lo.isLt, Nat.shiftLeft_eq]
  omega

/-! ### The header port -/

/-- The mask of R60 keeps the industry in bits 15:13 and the manufacturer in bits 10:0. -/
theorem toNat_and_headerMask (w : BitVec 16) :
    (w &&& 0xE7FF#16).toNat = w.toNat / 8192 * 8192 + w.toNat % 2048 := by
  have hsplit : w &&& 0xE7FF#16 = w >>> 13 <<< 13 ||| w &&& 0x7FF#16 := by
    apply BitVec.eq_of_getLsbD_eq
    intro k hk
    interval_cases k <;> simp
  have hlow : (w &&& 0x7FF#16).toNat = w.toNat % 2048 := Nat.and_two_pow_sub_one_eq_mod w.toNat 11
  have hhigh : (w >>> 13 <<< 13).toNat = (w.toNat / 8192) <<< 13 := by
    simp only [BitVec.toNat_shiftLeft, BitVec.toNat_ushiftRight, Nat.shiftRight_eq_div_pow, Nat.shiftLeft_eq,
      Nat.reducePow]
    omega
  have hlt : w.toNat % 2048 < 2 ^ 13 := by omega
  rw [hsplit, BitVec.toNat_or, hlow, hhigh, ← Nat.shiftLeft_add_eq_or_of_lt hlt, Nat.shiftLeft_eq]

/-- The row's mask and match hold exactly of the vendor's header (30_encoding.md R52). -/
theorem headerMatches_iff_vendor (b0 b1 : Byte) (p : Bytes) :
    headerMatches b0 b1 = true ↔ vendor (b0 :: b1 :: p) := by
  have hnum : numberAt (b0 :: b1 :: p) 0 2 = (b1 ++ b0 : BitVec 16).toNat := (toNat_append_byte b1 b0).symm
  unfold headerMatches vendor manufacturerOf industryOf
  rw [hnum, beq_iff_eq, ← BitVec.toNat_inj, toNat_and_headerMask]
  show _ = 34280 ↔ _
  omega

theorem decodeHeader_short : ∀ {p : Bytes}, p.length < 2 → decodeHeader p = .error .truncated
  | [], _ => rfl
  | [_], _ => rfl
  | _ :: _ :: _, h => absurd h (by simp)

theorem decodeHeader_vendor : ∀ {p : Bytes}, 2 ≤ p.length → vendor p → decodeHeader p = .ok .propHeader
  | b0 :: b1 :: rest, _, hv => if_pos ((headerMatches_iff_vendor b0 b1 rest).2 hv)

theorem decodeHeader_not_vendor : ∀ {p : Bytes}, 2 ≤ p.length → ¬ vendor p →
    decodeHeader p = .error (.noMatch .wrongHeader)
  | b0 :: b1 :: rest, _, hv => if_neg (mt (headerMatches_iff_vendor b0 b1 rest).1 hv)

/-- The header that PACK_HDR makes of the vendor constants unpacks to them. -/
theorem exec_propHeader (s : State) : exec .propHeader s = answers s (.headerFields 1512 4) := by
  have hunpack : unpackHdr (packHdr vendorManufacturer vendorIndustry).1 (packHdr vendorManufacturer vendorIndustry).2 =
      (1512, 4) := by decide
  show answer s _ = answer s _
  rw [hunpack]

/-! ### The identifier port -/

/-- The instruction that an identifier's layout stands for (30_encoding.md R51). -/
def busIdOf (id : BitVec 32) : Instr :=
  .busId (id.extractLsb' 26 3) (id.extractLsb' 8 18) (id.extractLsb' 0 8)

theorem container_eq_ofNat (b0 b1 b2 b3 : Byte) (p : Bytes) :
    (b3 ++ b2 ++ b1 ++ b0 : BitVec 32) = BitVec.ofNat 32 (numberAt (b0 :: b1 :: b2 :: b3 :: p) 0 4) := by
  have hnum : numberAt (b0 :: b1 :: b2 :: b3 :: p) 0 4 = (b3 ++ b2 ++ b1 ++ b0 : BitVec 32).toNat := by
    rw [toNat_append_byte (b3 ++ b2 ++ b1) b0, toNat_append_byte (b3 ++ b2) b1, toNat_append_byte b3 b2]
    rfl
  rw [hnum, BitVec.ofNat_toNat, BitVec.setWidth_eq]

theorem numberAt_lt (p : Bytes) (k n : Nat) : numberAt p k n < 256 ^ n := by
  induction n generalizing k with
  | zero => exact Nat.one_pos
  | succ n ih =>
    have hbyte : byteNat p k < 256 := (p.getD k 0).isLt
    have hmore := ih (k + 1)
    rw [numberAt, Nat.pow_succ]
    omega

theorem toNat_container (p : Bytes) : (BitVec.ofNat 32 (numberAt p 0 4)).toNat = numberAt p 0 4 :=
  (BitVec.toNat_ofNat _ _).trans (Nat.mod_eq_of_lt (numberAt_lt p 0 4))

/-- Bits 31:29 of a container are 0 exactly below 2^29. -/
theorem extractLsb'_top_eq_zero_iff (id : BitVec 32) : id.extractLsb' 29 3 = 0 ↔ id.toNat < 2 ^ 29 := by
  rw [← BitVec.toNat_inj, BitVec.extractLsb'_toNat, Nat.shiftRight_eq_div_pow]
  show _ = 0 ↔ _
  omega

theorem decodeBusId_short : ∀ {p : Bytes}, p.length < 4 → decodeBusId p = .error .truncated
  | [], _ => rfl
  | [_], _ => rfl
  | [_, _], _ => rfl
  | [_, _, _], _ => rfl
  | _ :: _ :: _ :: _ :: _, h => absurd h (by simp)

/-- A container decodes to its three fields, or breaks R51 in a bit above 28. -/
theorem decodeBusId_of_length : ∀ {p : Bytes}, 4 ≤ p.length →
    decodeBusId p =
      if numberAt p 0 4 < 2 ^ 29 then .ok (busIdOf (BitVec.ofNat 32 (numberAt p 0 4))) else .error .badId
  | b0 :: b1 :: b2 :: b3 :: rest, _ => by
    simp only [decodeBusId, container_eq_ofNat b0 b1 b2 b3 rest, extractLsb'_top_eq_zero_iff, toNat_container, busIdOf]

/-- MAKE_ID puts the fields back where R51 has them, and nothing above bit 28. -/
theorem makeId_fields (id : BitVec 32) :
    makeId ((id.extractLsb' 26 3).setWidth 8) ((id.extractLsb' 8 18).setWidth 32) (id.extractLsb' 0 8) broadcast =
      id &&& 0x1FFFFFFF#32 := by
  simp only [makeId, ne_eq, not_true_eq_false, if_false]
  apply BitVec.eq_of_getLsbD_eq
  intro k hk
  interval_cases k <;> simp

theorem exec_busIdOf {id : BitVec 32} (h : id.toNat < 2 ^ 29) (s : State) : exec (busIdOf id) s = answers s (.id id) := by
  have hmask : id &&& 0x1FFFFFFF#32 = id := by
    apply BitVec.eq_of_toNat_eq
    exact (Nat.and_two_pow_sub_one_eq_mod id.toNat 29).trans (Nat.mod_eq_of_lt h)
  show answer s (.ok (.id (makeId _ _ _ _))) = answer s (.ok (.id id))
  rw [makeId_fields, hmask]

/-- Settles O7: each port's decoder, case by case, and what the two answered rows compute. -/
theorem wirePortsAnswerOrRefuse : Obligations.WirePortsAnswerOrRefuse := by
  unfold Obligations.WirePortsAnswerOrRefuse
  intro s rest p idle
  refine ⟨?tooLong, fun hp => ⟨?headerShort, ?headerVendor, ?headerOther⟩, fun hp => ⟨?idShort, ?idBad, ?idGood⟩⟩
  case tooLong =>
    rintro port (rfl | ⟨expected, rfl⟩) hp hlen
    · exact step_of_decode_error hp (decodeProp_tooLong Config.current hlen)
    · exact step_of_decode_error hp (decodeGroupFunction_tooLong Config.current expected hlen)
  case headerShort => exact fun hlen => step_of_decode_error hp (decodeHeader_short hlen)
  case headerVendor =>
    exact fun hlen hv => (step_of_decode_ok hp (decodeHeader_vendor hlen hv)).trans (exec_propHeader idle)
  case headerOther => exact fun hlen hv => step_of_decode_error hp (decodeHeader_not_vendor hlen hv)
  case idShort => exact fun hlen => step_of_decode_error hp (decodeBusId_short hlen)
  case idBad =>
    intro hlen hbig
    have hdec := (decodeBusId_of_length hlen).trans (if_neg (Nat.not_lt.2 hbig))
    exact step_of_decode_error hp hdec
  case idGood =>
    intro hlen hsmall
    have hdec := (decodeBusId_of_length hlen).trans (if_pos hsmall)
    have hid : (BitVec.ofNat 32 (numberAt p 0 4)).toNat < 2 ^ 29 := by rwa [toNat_container]
    exact (step_of_decode_ok hp hdec).trans (exec_busIdOf hid idle)

end Sys2Proof.Proofs

/-! # The detector's state (10_state.md)

Reset, and the invariant that every step keeps: REC canonical (R11) and CONF = conflicts(REC) (R12). -/

namespace Sys2Proof.Proofs
open Sys2Proof Sys2Proof.Machine Sys2Proof.Spec

/-! ## What a step can do -/

/-- A rejected request is answered, with a failure, only when no row of the wire format matches it. -/
theorem answerReject_next {r : Reject} {s t : State} (h : answerReject r s = .next t) :
    ∃ f, r = .noMatch f ∧ t = s.withResponse (.fail f none) := by
  cases r with
  | noMatch f => exact ⟨f, rfl, answer_eq_next h⟩
  | unknownOp | truncated | badFlag | badId | tooLongPayload => cases h

/-- All the ways a step gives a next state: it is idle, or it executes the oldest request, or it answers that no row of
the wire format matches it. -/
theorem step_next {s t : State} (h : step s = .next t) :
    (s.pending = [] ∧ t = s) ∨
    ∃ q rest, s.pending = q :: rest ∧
      ((∃ i, decode Config.current q = .ok i ∧ exec i (s.withPending rest) = .next t) ∨
       (∃ f, decode Config.current q = .error (.noMatch f) ∧
         t = (s.withPending rest).withResponse (.fail f none))) := by
  cases hp : s.pending with
  | nil =>
    have hidle : step s = .next s := by simp only [step, fetch, hp]
    rw [hidle] at h
    cases h
    exact .inl ⟨rfl, rfl⟩
  | cons q rest =>
    refine .inr ⟨q, rest, rfl, ?_⟩
    cases hd : decode Config.current q with
    | ok i => exact .inl ⟨i, rfl, (step_of_decode_ok hp hd).symm.trans h⟩
    | error r =>
      obtain ⟨f, rfl, ht⟩ := answerReject_next ((step_of_decode_error hp hd).symm.trans h)
      exact .inr ⟨f, rfl, ht⟩

/-! ## Consistent states -/

section Consistent

variable {s t : State}

theorem consistent_iff : s.consistent = true ↔ recStoreWf s.recs = true ∧ s.conf = conflicts s.recs := by
  rw [State.consistent, Bool.and_eq_true, decide_eq_true_eq]

@[simp] theorem consistent_withResponse (r : Response) : (s.withResponse r).consistent = s.consistent := rfl

@[simp] theorem consistent_withPending (pending : List Request) :
    (s.withPending pending).consistent = s.consistent := rfl

/-- A detector rewritten to a canonical store and that store's conflicts is consistent, whatever it was before. -/
theorem consistent_withDetector_conflicts (s : State) {recs : List InstanceRecord} (h : recStoreWf recs = true) :
    (s.withDetector recs (conflicts recs)).consistent = true :=
  consistent_iff.2 ⟨h, rfl⟩

theorem observed_consistent (cfg : Config) (m : Message) (now : Timestamp) (h : s.consistent = true) :
    (observed cfg m now s).consistent = true := by
  unfold observed
  cases observedInstance cfg m with
  | none => exact h
  | some inst => exact consistent_withDetector_conflicts s (recUpsert_wf (consistent_iff.1 h).1)

/-- Only three operations write the detector, and each of them ends with CONF = conflicts(REC) (R155, R157, R160). -/
theorem exec_keeps_consistent (i : Instr) (h : s.consistent = true) (he : exec i s = .next t) :
    t.consistent = true := by
  cases hw : writesDetector i with
  | false =>
    obtain ⟨r, rfl⟩ := onlyDetectorOperationsTouchState i s t he hw
    exact h
  | true =>
    cases i with
    | observe m now =>
      obtain ⟨_, rfl⟩ := answerIf_next (ok := messageOk m) he
      exact observed_consistent Config.current m now h
    | recomputeConflicts =>
      obtain rfl := answer_eq_next he
      exact consistent_withDetector_conflicts s (consistent_iff.1 h).1
    | clear =>
      obtain rfl := answer_eq_next he
      exact consistent_withDetector_conflicts s recStoreWf_nil
    | _ => cases hw

end Consistent

/-- Settles O14: taking a request off and answering leave the detector alone, and an executed instruction keeps it
consistent. -/
theorem stepKeepsDetectorConsistent : Obligations.StepKeepsDetectorConsistent := by
  unfold Obligations.StepKeepsDetectorConsistent
  intro s t hs hstep
  rcases step_next hstep with ⟨_, rfl⟩ | ⟨q, rest, _, ⟨i, _, hexec⟩ | ⟨f, _, rfl⟩⟩
  · exact hs
  · have hrest : (s.withPending rest).consistent = true := (consistent_withPending rest).trans hs
    exact exec_keeps_consistent i hrest hexec
  · rwa [consistent_withResponse, consistent_withPending]

/-- The state after reset meets the invariant: the empty store is canonical and has no conflicts. -/
theorem consistent_reset : State.reset.consistent = true :=
  consistent_iff.2 ⟨recStoreWf_nil, rfl⟩

/-- Settles O15: `consistent_reset`, and the other fields as reset defines them. -/
theorem resetIsEmptyAndConsistent : Obligations.ResetIsEmptyAndConsistent := by
  unfold Obligations.ResetIsEmptyAndConsistent
  exact ⟨rfl, rfl, consistent_reset, rfl, rfl⟩

end Sys2Proof.Proofs

/-! # The order of the observations (20_memory.md R43, 46_instance_conflict.md R161)

A canonical REC is determined, but for last_seen, by the instance bound to each key, and CONF by REC but for last_seen.
A run of observations binds to a key the instance of its last observation that counts, or leaves the key as it was. -/

namespace Sys2Proof.Proofs
open Sys2Proof Sys2Proof.Machine Sys2Proof.Spec

/-! ## Canonical stores -/

/-- Two lists that ascend strictly in the same key are equal when they have the same members. -/
theorem eq_of_pairwise_key_lt {α : Type} {key : α → Nat} {xs ys : List α}
    (hxs : xs.Pairwise (fun x y => key x < key y)) (hys : ys.Pairwise (fun x y => key x < key y))
    (hmem : ∀ x, x ∈ xs ↔ x ∈ ys) : xs = ys := by
  have ne_of_key_lt {x y : α} (h : key x < key y) : x ≠ y := fun e => absurd (e ▸ h) (lt_irrefl _)
  have hperm : xs.Perm ys :=
    (List.perm_ext_iff_of_nodup (hxs.imp ne_of_key_lt) (hys.imp ne_of_key_lt)).2 hmem
  exact hperm.eq_of_pairwise (fun _ _ _ _ hxy hyx => absurd hyx (lt_asymm hxy)) hxs hys

/-- In a canonical store a key reads back exactly the record that it has in the store (10_state.md R11). -/
theorem recLookup_eq_some_iff {recs : List InstanceRecord} (hwf : recStoreWf recs = true) {g : Pgn} {a : Byte}
    {r : InstanceRecord} : recLookup recs g a = some r ↔ r ∈ recs ∧ r.pgn = g ∧ r.source = a := by
  rw [recStoreWf_iff] at hwf
  induction recs with
  | nil => simp [recLookup]
  | cons x xs ih =>
    obtain ⟨hx, hxs⟩ := List.pairwise_cons.1 hwf
    rw [recLookup_cons, List.mem_cons]
    split
    next hkey =>
      constructor
      · rintro ⟨rfl⟩
        exact ⟨.inl rfl, hkey⟩
      · rintro ⟨rfl | hr, hg, ha⟩
        · rfl
        · have hlt := hx r hr
          rw [keyOf, keyOf, hkey.1, hkey.2, hg, ha] at hlt
          exact absurd hlt (lt_irrefl _)
    next hkey =>
      rw [ih hxs]
      constructor
      · exact fun ⟨hr, hrkey⟩ => ⟨.inr hr, hrkey⟩
      · rintro ⟨rfl | hr, hrkey⟩
        · exact absurd hrkey hkey
        · exact ⟨hr, hrkey⟩

/-- The instance that REC binds to a key, if it binds one. -/
def boundInstance (recs : List InstanceRecord) (g : Pgn) (a : Byte) : Option Byte :=
  (recLookup recs g a).map fun r => r.inst

theorem boundInstance_recUpsert (r : InstanceRecord) (recs : List InstanceRecord) (g : Pgn) (a : Byte) :
    boundInstance (recUpsert r recs) g a =
      if r.pgn = g ∧ r.source = a then some r.inst else boundInstance recs g a := by
  rw [boundInstance, recLookup_recUpsert, apply_ite (Option.map _)]
  rfl

section Observed

variable {s t : State}

theorem mem_observedRecords_iff (hs : s.consistent = true) {g : Pgn} {a i : Byte} :
    (g, a, i) ∈ observedRecords s ↔ boundInstance s.recs g a = some i := by
  simp only [observedRecords, boundInstance, List.mem_map, Prod.mk.injEq, Option.map_eq_some_iff,
    recLookup_eq_some_iff (consistent_iff.1 hs).1, and_assoc]

theorem observedRecords_pairwise (hs : s.consistent = true) :
    (observedRecords s).Pairwise (fun x y => recKey x.1 x.2.1 < recKey y.1 y.2.1) :=
  List.pairwise_map.2 ((recStoreWf_iff s.recs).1 (consistent_iff.1 hs).1)

/-- A canonical REC is determined, but for last_seen, by the instance bound to each key. -/
theorem observedRecords_eq_iff (hs : s.consistent = true) (ht : t.consistent = true) :
    observedRecords s = observedRecords t ↔ ∀ g a, boundInstance s.recs g a = boundInstance t.recs g a := by
  constructor
  · intro h g a
    ext i
    rw [← mem_observedRecords_iff hs, ← mem_observedRecords_iff ht, h]
  · intro h
    refine eq_of_pairwise_key_lt (observedRecords_pairwise hs) (observedRecords_pairwise ht) ?_
    rintro ⟨g, a, i⟩
    rw [mem_observedRecords_iff hs, mem_observedRecords_iff ht, h]

/-! ## Conflicts do not read last_seen (R156) -/

theorem sourcesOf_eq_of_observedRecords_eq (h : observedRecords s = observedRecords t) (g : Pgn) (i : Byte) :
    sourcesOf s.recs g i = sourcesOf t.recs g i := by
  have hsources (u : State) : ((u.recs.filter fun r => r.pgn == g && r.inst == i).map fun r => r.source) =
      ((observedRecords u).filter fun x => x.1 == g && x.2.2 == i).map fun x => x.2.1 := by
    rw [observedRecords, List.filter_map, List.map_map]
    rfl
  rw [sourcesOf, sourcesOf, hsources s, hsources t, h]

theorem groups_eq_of_observedRecords_eq (h : observedRecords s = observedRecords t) :
    groups s.recs = groups t.recs := by
  have hgroups (u : State) : (u.recs.map fun r => (r.pgn, r.inst)) =
      (observedRecords u).map fun x => (x.1, x.2.2) := by
    rw [observedRecords, List.map_map]
    rfl
  rw [groups, groups, hgroups s, hgroups t, h]

theorem conflicts_eq_of_observedRecords_eq (h : observedRecords s = observedRecords t) :
    conflicts s.recs = conflicts t.recs := by
  have hgroup : groupConflict s.recs = groupConflict t.recs := by
    funext g
    rw [groupConflict, groupConflict, sourcesOf_eq_of_observedRecords_eq h]
  rw [conflicts, conflicts, groups_eq_of_observedRecords_eq h, hgroup]

end Observed

/-! ## Runs of observations -/

/-- OBSERVE within the contract answers on the state that `observed` gives (R155). -/
theorem exec_observe {m : Message} (hm : messageOk m = true) (now : Timestamp) (s : State) :
    exec (.observe m now) s = .next ((observed Config.current m now s).withResponse
      (.ok (.updated (observedInstance Config.current m).isSome))) :=
  answerIf_of hm

/-- The state that `observeAll` continues from, for one observation within the contract. -/
theorem observeAll_cons {o : Observation} (ho : messageOk o.1 = true) (os : List Observation) (s : State) :
    observeAll (o :: os) s = observeAll os ((observed Config.current o.1 o.2 s).withResponse
      (.ok (.updated (observedInstance Config.current o.1).isSome))) := by
  rw [observeAll, exec_observe ho]

theorem observeAll_consistent {os : List Observation} (hos : ∀ o ∈ os, messageOk o.1 = true) {s : State}
    (hs : s.consistent = true) : (observeAll os s).consistent = true := by
  induction os generalizing s with
  | nil => exact hs
  | cons o os ih =>
    obtain ⟨ho, hos⟩ := List.forall_mem_cons.1 hos
    rw [observeAll_cons ho]
    exact ih hos (observed_consistent Config.current o.1 o.2 hs)

/-- One observation binds its own key to the instance it carries, when it counts, and leaves every other key. -/
theorem boundInstance_observed (cfg : Config) (m : Message) (now : Timestamp) (s : State) (g : Pgn) (a : Byte) :
    boundInstance (observed cfg m now s).recs g a =
      (if m.pgn = g ∧ m.source = a then observedInstance cfg m else none).or (boundInstance s.recs g a) := by
  unfold observed
  cases observedInstance cfg m with
  | none => rw [ite_self, Option.none_or]
  | some inst =>
    rw [State.withDetector_recs, boundInstance_recUpsert, apply_ite (Option.or · _)]
    rfl

theorem observedInstance_eq_bind (cfg : Config) (m : Message) :
    observedInstance cfg m = (cfg.instanceOffset m.pgn).bind fun off => m.payload[off]? := by
  unfold observedInstance
  cases cfg.instanceOffset m.pgn <;> rfl

theorem lastInstance_cons (g : Pgn) (a : Byte) (o : Observation) (os : List Observation) :
    lastInstance g a (o :: os) = (lastInstance g a os).or
      (if o.1.pgn = g ∧ o.1.source = a then observedInstance Config.current o.1 else none) := by
  rw [lastInstance, observedInstance_eq_bind]
  cases lastInstance g a os <;> rfl

/-- A run binds to each key the instance of its last observation that counts, or leaves the key as it was (R161). -/
theorem boundInstance_observeAll {os : List Observation} (hos : ∀ o ∈ os, messageOk o.1 = true) (s : State)
    (g : Pgn) (a : Byte) :
    boundInstance (observeAll os s).recs g a = (lastInstance g a os).or (boundInstance s.recs g a) := by
  induction os generalizing s with
  | nil => rfl
  | cons o os ih =>
    obtain ⟨ho, hos⟩ := List.forall_mem_cons.1 hos
    rw [observeAll_cons ho, ih hos, State.withResponse_recs, boundInstance_observed, lastInstance_cons, Option.or_assoc]

/-- Settles O59: both runs bind the same instance to every key, so they end with the same REC but for last_seen, and
with its conflicts. -/
theorem conflictsIgnoreObservationOrder : Obligations.ConflictsIgnoreObservationOrder := by
  unfold Obligations.ConflictsIgnoreObservationOrder
  intro s s' os os' hs hs' hrecs hos hos' hlast
  have hend : (observeAll os s).consistent = true := observeAll_consistent hos hs
  have hend' : (observeAll os' s').consistent = true := observeAll_consistent hos' hs'
  have hbound (g : Pgn) (a : Byte) :
      boundInstance (observeAll os s).recs g a = boundInstance (observeAll os' s').recs g a := by
    rw [boundInstance_observeAll hos, boundInstance_observeAll hos', hlast, (observedRecords_eq_iff hs hs').1 hrecs]
  have hrecsEnd : observedRecords (observeAll os s) = observedRecords (observeAll os' s') :=
    (observedRecords_eq_iff hend hend').2 hbound
  refine ⟨hrecsEnd, ?_⟩
  rw [(consistent_iff.1 hend).2, (consistent_iff.1 hend').2, conflicts_eq_of_observedRecords_eq hrecsEnd]

end Sys2Proof.Proofs

/-! # Words in bytes (20_memory.md R31)

The bytes a word is written as, and the number the rules read in them. -/

namespace Sys2Proof.Proofs
open Sys2Proof Sys2Proof.Machine Sys2Proof.Codec Sys2Proof.Spec

theorem leBytes_one (b : Byte) : leBytes 1 b.toNat = [b] := by
  simp only [leBytes, BitVec.ofNat_toNat, BitVec.setWidth_eq]

theorem leBytes_append_byte {w : Nat} (n : Nat) (hi : BitVec w) (lo : Byte) :
    leBytes (n + 1) (hi ++ lo).toNat = lo :: leBytes n hi.toNat := by
  have hlo : BitVec.ofNat 8 (lo.toNat + 256 * hi.toNat) = lo := by
    apply BitVec.eq_of_toNat_eq
    rw [BitVec.toNat_ofNat]
    omega
  have hhi : (lo.toNat + 256 * hi.toNat) / 256 = hi.toNat := by omega
  rw [toNat_append_byte, leBytes, hlo, hhi]

theorem write24_append (b0 b1 b2 : Byte) : write24 (b2 ++ b1 ++ b0) = [b0, b1, b2] := by
  rw [write24, leBytes_append_byte, leBytes_append_byte, leBytes_one]

theorem exists_append_byte {n : Nat} (v : BitVec (n + 8)) : ∃ (hi : BitVec n) (lo : Byte), v = hi ++ lo :=
  ⟨_, _, BitVec.extractLsb'_append_extractLsb'.symm⟩

/-- A u16 and its two bytes. -/
theorem exists_write16 (v : BitVec 16) : ∃ b0 b1 : Byte, v = b1 ++ b0 ∧ write16 v = [b0, b1] := by
  obtain ⟨b1, b0, rfl⟩ := exists_append_byte (n := 8) v
  exact ⟨b0, b1, rfl, by rw [write16, leBytes_append_byte, leBytes_one]⟩

/-- A u24 and its three bytes. -/
theorem exists_write24 (v : BitVec 24) : ∃ b0 b1 b2 : Byte, v = b2 ++ b1 ++ b0 ∧ write24 v = [b0, b1, b2] := by
  obtain ⟨hi, b0, rfl⟩ := exists_append_byte (n := 16) v
  obtain ⟨b2, b1, rfl⟩ := exists_append_byte (n := 8) hi
  exact ⟨b0, b1, b2, rfl, write24_append b0 b1 b2⟩

theorem numberAt_cons_succ (b : Byte) (bs : Bytes) (k n : Nat) : numberAt (b :: bs) (k + 1) n = numberAt bs k n := by
  induction n generalizing k with
  | zero => rfl
  | succ n ih => rw [numberAt, numberAt, ih]; rfl

/-- The number that the rules read from byte 0 on is the one the model reads in those bytes (R31). -/
theorem numberAt_append (bs rest : Bytes) : numberAt (bs ++ rest) 0 bs.length = leNat bs := by
  induction bs with
  | nil => rfl
  | cons b bs ih => rw [List.cons_append, List.length_cons, numberAt, numberAt_cons_succ, ih]; rfl

theorem numberAt_leBytes (n v : Nat) (rest : Bytes) : numberAt (leBytes n v ++ rest) 0 n = v % 256 ^ n := by
  have h := numberAt_append (leBytes n v) rest
  rwa [leBytes_length, leNat_leBytes] at h

end Sys2Proof.Proofs

/-! # Proprietary payloads on their port (30_encoding.md R60, 42_parsers.md R106)

The match and mask decoder of R60 and the pseudocode of R106, region by region, and that they are one function. -/

namespace Sys2Proof.Proofs
open Sys2Proof Sys2Proof.Machine Sys2Proof.Codec Sys2Proof.Spec

/-! ## The header test -/

/-- UNPACK_HDR reads the two fields of the header's 16 bits (R52, R81). -/
theorem unpackHdr_eq_fields (b0 b1 : Byte) (p : Bytes) :
    unpackHdr b0 b1 =
      (BitVec.ofNat 16 (manufacturerOf (b0 :: b1 :: p)), BitVec.ofNat 8 (industryOf (b0 :: b1 :: p))) := by
  have hcombined : (b0.setWidth 16 ||| b1.setWidth 16 <<< 8) = b1 ++ b0 := by
    have h0 : b0.toNat % 2 ^ 16 = b0.toNat := by omega
    have h1 : b1.toNat % 2 ^ 16 = b1.toNat := by omega
    have h8 : b1.toNat <<< 8 % 2 ^ 16 = b1.toNat <<< 8 := by rw [Nat.shiftLeft_eq]; omega
    apply BitVec.eq_of_toNat_eq
    rw [BitVec.toNat_append, Nat.or_comm, BitVec.toNat_or, BitVec.toNat_shiftLeft, BitVec.toNat_setWidth,
      BitVec.toNat_setWidth, h0, h1, h8]
  have hnum : numberAt (b0 :: b1 :: p) 0 2 = (b1 ++ b0 : BitVec 16).toNat := (toNat_append_byte b1 b0).symm
  unfold unpackHdr manufacturerOf industryOf
  rw [hcombined, hnum]
  have hlt := (b1 ++ b0 : BitVec 16).isLt
  refine Prod.ext (BitVec.eq_of_toNat_eq ?_) (BitVec.eq_of_toNat_eq ?_)
  · show (b1 ++ b0 : BitVec 16).toNat &&& (2 ^ 11 - 1) = _
    rw [Nat.and_two_pow_sub_one_eq_mod, BitVec.toNat_ofNat]
    omega
  · show ((b1 ++ b0 : BitVec 16).toNat >>> 13 &&& (2 ^ 3 - 1)) % 2 ^ 8 = _
    rw [Nat.and_two_pow_sub_one_eq_mod, Nat.shiftRight_eq_div_pow, BitVec.toNat_ofNat]
    omega

/-- The header test of R83 and the mask and match of R60 are the same test. -/
theorem isVendorHeader_eq_headerMatches (b0 b1 : Byte) : isVendorHeader b0 b1 = headerMatches b0 b1 := by
  have hlt : numberAt [b0, b1] 0 2 < 65536 := numberAt_lt [b0, b1] 0 2
  rw [Bool.eq_iff_iff, headerMatches_iff_vendor b0 b1 [], isVendorHeader, unpackHdr_eq_fields b0 b1 [], beq_iff_eq,
    Prod.ext_iff, ← BitVec.toNat_inj, ← BitVec.toNat_inj, BitVec.toNat_ofNat, BitVec.toNat_ofNat]
  unfold vendor manufacturerOf industryOf
  show _ = 1512 ∧ _ = 4 ↔ _
  omega

theorem tagOfCode_tagCode (t : PropTag) : tagOfCode (tagCode t) = some t := by
  cases t <;> rfl

theorem tagCode_of_tagOfCode {tag : Byte} {t : PropTag} (h : tagOfCode tag = some t) : tag = tagCode t := by
  unfold tagOfCode at h
  apply BitVec.eq_of_toNat_eq
  split at h <;> cases h <;> assumption

section PropPayload

variable {cfg : Config} {b0 b1 tag : Byte} {rest : Bytes}

/-! ## PARSE_PROPRIETARY on three bytes or more, by R106's tests in order -/

theorem parseProprietary_wrongHeader (h : headerMatches b0 b1 = false) :
    parseProprietary cfg (b0 :: b1 :: tag :: rest) = .error .wrongHeader := by
  simp [parseProprietary, isValid, isVendorHeader_eq_headerMatches, h]

theorem parseProprietary_unknownTag (h : headerMatches b0 b1 = true) (htag : tagOfCode tag = none) :
    parseProprietary cfg (b0 :: b1 :: tag :: rest) = .error (.unknownTag tag) := by
  simp [parseProprietary, isValid, isVendorHeader_eq_headerMatches, h, getPropId, htag]

theorem parseProprietary_tagCode (h : headerMatches b0 b1 = true) (t : PropTag) :
    parseProprietary cfg (b0 :: b1 :: tagCode t :: rest) =
      if (b0 :: b1 :: tagCode t :: rest).length < (cfg.parseMinLen t).val then .error .shortForType
      else .ok (propFields cfg (b0 :: b1 :: tagCode t :: rest) t) := by
  have hdispatch : parseProprietary cfg (b0 :: b1 :: tagCode t :: rest) =
      parseAs cfg t (b0 :: b1 :: tagCode t :: rest) := by
    simp [parseProprietary, isValid, isVendorHeader_eq_headerMatches, h, getPropId, tagOfCode_tagCode]
  rw [hdispatch, parseAs, parseGate, isVendorHeader_eq_headerMatches, h, if_neg (by decide), if_neg (not_not.2 rfl),
    apply_ite (Except.map _)]
  rfl

/-! ## The port on three bytes or more, by R60's tests in order -/

theorem decodeProp_wrongHeader (hok : payloadOk (b0 :: b1 :: tag :: rest) = true) (h : headerMatches b0 b1 = false) :
    decodeProp cfg (b0 :: b1 :: tag :: rest) = .error (.noMatch .wrongHeader) := by
  simp [decodeProp, hok, h]

theorem decodeProp_unknownTag (hok : payloadOk (b0 :: b1 :: tag :: rest) = true) (h : headerMatches b0 b1 = true)
    (htag : tagOfCode tag = none) :
    decodeProp cfg (b0 :: b1 :: tag :: rest) = .error (.noMatch (.unknownTag tag)) := by
  simp [decodeProp, hok, h, htag]

theorem decodeProp_tagCode {t : PropTag} (hok : payloadOk (b0 :: b1 :: tagCode t :: rest) = true)
    (h : headerMatches b0 b1 = true) :
    decodeProp cfg (b0 :: b1 :: tagCode t :: rest) =
      if (b0 :: b1 :: tagCode t :: rest).length < (cfg.parseMinLen t).val then .error (.noMatch .shortForType)
      else .ok (propInstr (propFields cfg (b0 :: b1 :: tagCode t :: rest) t)) := by
  simp only [decodeProp, hok, h, tagOfCode_tagCode, if_true]

end PropPayload

/-! ## The two agree -/

/-- The match and mask decoder of R60 is PARSE_PROPRIETARY's pseudocode (R106). -/
theorem decodeProp_eq_parseProprietary (cfg : Config) {p : Bytes} (hok : payloadOk p = true) :
    decodeProp cfg p = ((parseProprietary cfg p).map propInstr).mapError .noMatch := by
  match p with
  | [] | [_] | [_, _] => rfl
  | b0 :: b1 :: tag :: rest =>
    cases hheader : headerMatches b0 b1 with
    | false => rw [decodeProp_wrongHeader hok hheader, parseProprietary_wrongHeader hheader]; rfl
    | true =>
      cases htag : tagOfCode tag with
      | none => rw [decodeProp_unknownTag hok hheader htag, parseProprietary_unknownTag hheader htag]; rfl
      | some t =>
        obtain rfl := tagCode_of_tagOfCode htag
        rw [decodeProp_tagCode hok hheader, parseProprietary_tagCode hheader, apply_ite (Except.map _),
          apply_ite (Except.mapError _)]
        rfl

/-- A recognised message is answered with its fields. -/
theorem exec_propInstr (m : PropMessage) (s : State) : exec (propInstr m) s = answers s (.parsed m) := by
  cases m <;> rfl

/-- A payload laid out as its builder lays it out is decoded to its fields, where the parsers accept that length. -/
theorem decodeProp_built {cfg : Config} {t : PropTag} {fields : Bytes}
    (hmin : (cfg.parseMinLen t).val ≤ builtLength t) (hlen : fields.length + 3 = builtLength t) :
    decodeProp cfg (0xE8 :: 0x85 :: tagCode t :: fields) =
      .ok (propInstr (propFields cfg (0xE8 :: 0x85 :: tagCode t :: fields) t)) := by
  have hbuilt : builtLength t ≤ payloadMax := by cases t <;> decide
  have hok : payloadOk (0xE8 :: 0x85 :: tagCode t :: fields) = true := decide_eq_true (hlen.trans_le hbuilt)
  rw [decodeProp_tagCode hok (by decide), if_neg]
  exact Nat.not_lt.2 (hmin.trans_eq hlen.symm)

/-- Settles O8: the port's decoder is PARSE_PROPRIETARY's function; a message it reads is answered with its fields,
a failure with itself. -/
theorem propPortRefinesParseProprietary : Obligations.PropPortRefinesParseProprietary := by
  unfold Obligations.PropPortRefinesParseProprietary
  intro s p rest hp hlen
  have hok : payloadOk p = true := decide_eq_true hlen
  have hdec := decodeProp_eq_parseProprietary Config.current hok
  have hexec : exec (.parseProprietary p) (s.withPending rest) =
      answer (s.withPending rest) (respond .parsed (parseProprietary Config.current p)) := answerIf_of hok
  refine Eq.trans ?_ hexec.symm
  cases hparse : parseProprietary Config.current p with
  | ok m =>
    rw [hparse] at hdec
    exact (step_of_decode_ok hp hdec).trans (exec_propInstr m _)
  | error f =>
    rw [hparse] at hdec
    exact step_of_decode_error hp hdec

end Sys2Proof.Proofs

/-! # Group function (43_group_function.md)

GF_PARSE_ACK, the two wire rows and the port that are answered as it answers, and GF_BUILD_CMD. -/

namespace Sys2Proof.Proofs
open Sys2Proof Sys2Proof.Machine Sys2Proof.Codec Sys2Proof.Spec

/-! ## GF_PARSE_ACK -/

/-- The configured command code is not the acknowledge's (D12). -/
theorem gfFuncCommand_ne_ack (cfg : Config) : cfg.gfFuncCommand ≠ 2 := by
  have hlt := cfg.gfFuncIndex.isLt
  unfold Config.gfFuncCommand
  split
  all_goals
    intro h
    have htoNat := congrArg BitVec.toNat h
    rw [BitVec.toNat_ofNat] at htoNat
    change _ = 2 at htoNat
    omega

section ParseAck

variable {cfg : Config} {p : Bytes} {expected : Pgn}

theorem gfParseAck_short : ∀ {p : Bytes}, p.length < 7 → gfParseAck cfg p expected = .error .shortPayload
  | [], _ | [_], _ | [_, _], _ | [_, _, _], _ | [_, _, _, _], _ | [_, _, _, _, _], _ | [_, _, _, _, _, _], _ => rfl
  | _ :: _ :: _ :: _ :: _ :: _ :: _ :: _, h => absurd h (by simp)

/-- GF_PARSE_ACK's tests in order (R112), on the bytes it reads. -/
theorem gfParseAck_of_length : ∀ {p : Bytes}, 7 ≤ p.length →
    gfParseAck cfg p expected =
      if byteNat p 0 ≠ 2 then .error .wrongFunctionCode
      else if numberAt p 1 3 ≠ expected.toNat % 2 ^ 24 then .error .wrongTargetPgn
      else if byteNat p 5 = 0 then .error .noParameters
      else .ok (p.getD 6 0, cfg.gfAckSuccess (p.getD 6 0))
  | f :: b1 :: b2 :: b3 :: reserved :: count :: entry1 :: more, _ => by
    have hfunction : f ≠ gfFuncAck ↔ f.toNat ≠ 2 := not_congr BitVec.toNat_inj.symm
    have htarget : (expected &&& 0xFFFFFF#32).toNat = expected.toNat % 2 ^ 24 :=
      Nat.and_two_pow_sub_one_eq_mod expected.toNat 24
    have hcount : count = 0 ↔ count.toNat = 0 := BitVec.toNat_inj.symm
    simp only [gfParseAck, hfunction, htarget, hcount]
    rfl

/-- The expected PGN does not matter when the function code is no acknowledge's. -/
theorem gfParseAck_not_ack (hf : byteNat p 0 ≠ 2) :
    gfParseAck cfg p expected = .error (if p.length < 7 then .shortPayload else .wrongFunctionCode) := by
  split
  next hlen => exact gfParseAck_short hlen
  next hlen => rw [gfParseAck_of_length (Nat.not_lt.1 hlen), if_pos hf]

theorem exec_gfParseAck (hok : payloadOk p = true) (s : State) :
    exec (.gfParseAck p expected) s =
      answer s (respond (fun r => .ack r.1 r.2) (gfParseAck Config.current p expected)) :=
  answerIf_of hok

theorem exec_gfParseAck_error (hok : payloadOk p = true) {f : Failure}
    (h : gfParseAck Config.current p expected = .error f) (s : State) :
    exec (.gfParseAck p expected) s = fails s f := by
  rw [exec_gfParseAck hok, h]
  rfl

theorem exec_gfParseAck_ok (hok : payloadOk p = true) {r : Byte × Bool}
    (h : gfParseAck Config.current p expected = .ok r) (s : State) :
    exec (.gfParseAck p expected) s = answers s (.ack r.1 r.2) := by
  rw [exec_gfParseAck hok, h]
  rfl

end ParseAck

/-- Settles O29: `gfParseAck_short` and the branches of `gfParseAck_of_length`. -/
theorem gfParseAckOutcome : Obligations.GfParseAckOutcome := by
  unfold Obligations.GfParseAckOutcome
  intro p e s hlen
  have hok : payloadOk p = true := decide_eq_true hlen
  refine ⟨?short, ?wrongFunction, ?wrongTarget, ?noParameters, ?acknowledge⟩
  case short => exact fun hshort => exec_gfParseAck_error hok (gfParseAck_short hshort) s
  case wrongFunction =>
    intro h7 hf
    refine exec_gfParseAck_error hok ?_ s
    rw [gfParseAck_of_length h7, if_pos hf]
  case wrongTarget =>
    intro h7 hf ht
    refine exec_gfParseAck_error hok ?_ s
    rw [gfParseAck_of_length h7, if_neg (not_not.2 hf), if_pos ht]
  case noParameters =>
    intro h7 hf ht hn
    refine exec_gfParseAck_error hok ?_ s
    rw [gfParseAck_of_length h7, if_neg (not_not.2 hf), if_neg (not_not.2 ht), if_pos hn]
  case acknowledge =>
    intro h7 hf ht hn
    refine exec_gfParseAck_ok (r := (p.getD 6 0, Config.current.gfAckSuccess (p.getD 6 0))) hok ?_ s
    rw [gfParseAck_of_length h7, if_neg (not_not.2 hf), if_neg (not_not.2 ht), if_neg hn]

/-! ## The wire rows GF_COMMAND and GF_ACK -/

theorem byteNat_gfFuncCommand_ne_ack (cfg : Config) (p : Bytes) : byteNat (cfg.gfFuncCommand :: p) 0 ≠ 2 :=
  fun h => gfFuncCommand_ne_ack cfg (BitVec.eq_of_toNat_eq h)

/-- GF_COMMAND is answered as its payload is by GF_PARSE_ACK, whatever PGN the host expects: its function code is no
acknowledge's. -/
theorem exec_gfCommand (target : BitVec 24) (priority count : Byte) (pairBytes : Bytes) (expected : Pgn) (s : State) :
    exec (.gfCommand target priority count pairBytes) s =
      exec (.gfParseAck (Config.current.gfFuncCommand :: (write24 target ++ priority :: count :: pairBytes)) expected)
        s := by
  show answerIf _ s (respond _ (gfParseAck Config.current _ 0)) =
    answerIf _ s (respond _ (gfParseAck Config.current _ expected))
  rw [gfParseAck_not_ack (byteNat_gfFuncCommand_ne_ack _ _), gfParseAck_not_ack (byteNat_gfFuncCommand_ne_ack _ _)]
  rfl

/-- GF_ACK is answered as its payload is by GF_PARSE_ACK. -/
theorem exec_gfAck (expected : Pgn) (target : BitVec 24) (count entry1 : Byte) (s : State) :
    exec (.gfAck expected target count entry1) s =
      exec (.gfParseAck (2 :: (write24 target ++ [0, count, entry1])) expected) s :=
  rfl

/-- GF_PARSE_ACK reads neither byte 4 nor what follows the first entry (R112). -/
theorem gfParseAck_reads (cfg : Config) (f b1 b2 b3 r r' count entry1 : Byte) (more more' : Bytes) (expected : Pgn) :
    gfParseAck cfg (f :: b1 :: b2 :: b3 :: r :: count :: entry1 :: more) expected =
      gfParseAck cfg (f :: b1 :: b2 :: b3 :: r' :: count :: entry1 :: more') expected :=
  rfl

section Decode

variable {cfg : Config} {expected : Pgn} {p : Bytes}

theorem decodeGroupFunction_short (hlen : p.length < 6) :
    decodeGroupFunction cfg expected p = .error (.noMatch .shortPayload) := by
  match p with
  | [] | [_] | [_, _] | [_, _, _] | [_, _, _, _] | [_, _, _, _, _] => rfl
  | _ :: _ :: _ :: _ :: _ :: _ :: _ => exact absurd hlen (by simp)

variable {f b1 b2 b3 prio count : Byte} {rest : Bytes}

theorem decodeGroupFunction_ack {entry1 : Byte} {more : Bytes}
    (hok : payloadOk (2 :: b1 :: b2 :: b3 :: prio :: count :: entry1 :: more) = true) :
    decodeGroupFunction cfg expected (2 :: b1 :: b2 :: b3 :: prio :: count :: entry1 :: more) =
      .ok (.gfAck expected (b3 ++ b2 ++ b1) count entry1) := by
  rw [decodeGroupFunction, if_pos hok]
  rfl

theorem decodeGroupFunction_command
    (hok : payloadOk (cfg.gfFuncCommand :: b1 :: b2 :: b3 :: prio :: count :: rest) = true) :
    decodeGroupFunction cfg expected (cfg.gfFuncCommand :: b1 :: b2 :: b3 :: prio :: count :: rest) =
      .ok (.gfCommand (b3 ++ b2 ++ b1) prio count rest) := by
  simp only [decodeGroupFunction, hok, if_true, if_neg (gfFuncCommand_ne_ack cfg)]

theorem decodeGroupFunction_other (hok : payloadOk (f :: b1 :: b2 :: b3 :: prio :: count :: rest) = true)
    (hack : f ≠ 2) (hcommand : f ≠ cfg.gfFuncCommand) :
    decodeGroupFunction cfg expected (f :: b1 :: b2 :: b3 :: prio :: count :: rest) =
      .error (.noMatch (if rest = [] then .shortPayload else .wrongFunctionCode)) := by
  simp only [decodeGroupFunction, hok, if_true, if_neg hack, if_neg hcommand]
  cases rest <;> rfl

end Decode

/-- A payload no row takes is answered with the failure it is rejected with. -/
theorem step_groupFunction_noMatch {s : State} {expected : Pgn} {p : Bytes} {rest : List Request} {f : Failure}
    (hp : s.pending = ⟨.groupFunction expected, p⟩ :: rest) (hok : payloadOk p = true)
    (hdec : decodeGroupFunction Config.current expected p = .error (.noMatch f))
    (hack : gfParseAck Config.current p expected = .error f) :
    step s = exec (.gfParseAck p expected) (s.withPending rest) :=
  (step_of_decode_error hp hdec).trans (exec_gfParseAck_error hok hack _).symm

/-- Settles O9: a payload that a row takes reads back as the row's payload, up to the bytes GF_PARSE_ACK does not read;
any other payload is rejected with GF_PARSE_ACK's own failure. -/
theorem groupFunctionPortRefinesParseAck : Obligations.GroupFunctionPortRefinesParseAck := by
  unfold Obligations.GroupFunctionPortRefinesParseAck
  intro s p expected rest hp hlen
  have hok : payloadOk p = true := decide_eq_true hlen
  show step s = exec (.gfParseAck p expected) (s.withPending rest)
  rcases Nat.lt_or_ge p.length 6 with hshort | hlong
  · exact step_groupFunction_noMatch hp hok (decodeGroupFunction_short hshort)
      (gfParseAck_short (Nat.lt_succ_of_lt hshort))
  obtain ⟨f, b1, b2, b3, prio, count, more, rfl⟩ : ∃ f b1 b2 b3 prio count more,
      p = f :: b1 :: b2 :: b3 :: prio :: count :: more := by
    match p, hlong with
    | _ :: _ :: _ :: _ :: _ :: _ :: _, _ => exact ⟨_, _, _, _, _, _, _, rfl⟩
  by_cases hack : f = 2
  · subst hack
    cases more with
    | nil => exact step_groupFunction_noMatch (f := .shortPayload) hp hok rfl rfl
    | cons entry1 more =>
      refine (step_of_decode_ok hp (decodeGroupFunction_ack hok)).trans ?_
      have hbuilt : payloadOk [2, b1, b2, b3, 0, count, entry1] = true := rfl
      rw [exec_gfAck, write24_append]
      show exec (.gfParseAck [2, b1, b2, b3, 0, count, entry1] expected) _ = _
      have hreads := gfParseAck_reads Config.current 2 b1 b2 b3 0 prio count entry1 [] more expected
      rw [exec_gfParseAck hbuilt, exec_gfParseAck hok, hreads]
  by_cases hcommand : f = Config.current.gfFuncCommand
  · subst hcommand
    refine (step_of_decode_ok hp (decodeGroupFunction_command hok)).trans ?_
    rw [exec_gfCommand _ _ _ _ expected, write24_append]
    rfl
  · refine step_groupFunction_noMatch hp hok (decodeGroupFunction_other hok hack hcommand) ?_
    rw [gfParseAck_not_ack (p := f :: b1 :: b2 :: b3 :: prio :: count :: more)
      fun h => hack (BitVec.eq_of_toNat_eq h)]
    cases more <;> rfl

/-! ## What each wire row is answered with -/

/-- The PGN of a built acknowledge is the one it was built with. -/
theorem numberAt_gfAck (f : Byte) (target : BitVec 24) (more : Bytes) :
    numberAt (f :: (write24 target ++ more)) 1 3 = target.toNat := by
  rw [numberAt_cons_succ, write24, numberAt_leBytes]
  exact Nat.mod_eq_of_lt target.isLt

/-- Settles O27: a proprietary row by `exec_propInstr`, the vendor header by `exec_propHeader`, and the group-function
rows as GF_PARSE_ACK answers their payloads. -/
theorem wireRowsAnswered : Obligations.WireRowsAnswered := by
  unfold Obligations.WireRowsAnswered
  intro s
  refine ⟨fun a w => exec_propInstr (.simpleAction a w) s, fun w st ty => exec_propInstr (.stateInfo w st ty) s,
    fun a w h sa b => exec_propInstr (.customHsb a w h sa b) s, fun w pt => exec_propInstr (.startPattern w pt) s,
    fun c d t => exec_propInstr (.outputChannelPwm c d t) s, exec_propHeader s, ?gfCommandShort, ?gfCommand, ?gfAck⟩
  case gfCommandShort =>
    intro g pr n
    rw [exec_gfCommand g pr n [] 0]
    have hshort : (Config.current.gfFuncCommand :: (write24 g ++ [pr, n])).length < 7 := Nat.lt_succ_self 6
    exact exec_gfParseAck_error rfl (gfParseAck_short hshort) s
  case gfCommand =>
    intro g pr n bs hpos hlen
    have hok : payloadOk (Config.current.gfFuncCommand :: (write24 g ++ pr :: n :: bs)) = true :=
      (payloadOk_gfCommand _ pr n g bs).trans (decide_eq_true (show 6 + bs.length ≤ 223 by omega))
    have hlong : ¬ (Config.current.gfFuncCommand :: (write24 g ++ pr :: n :: bs)).length < 7 := by
      simp only [List.length_cons, List.length_append, write24, leBytes_length]
      omega
    rw [exec_gfCommand g pr n bs 0]
    refine exec_gfParseAck_error hok ?_ s
    rw [gfParseAck_not_ack (byteNat_gfFuncCommand_ne_ack _ _), if_neg hlong]
  case gfAck =>
    intro e g n e1
    have htarget := numberAt_gfAck 2 g [0, n, e1]
    have hlen : (2 :: (write24 g ++ [0, n, e1])).length = 7 := rfl
    have houtcome := gfParseAckOutcome (2 :: (write24 g ++ [0, n, e1])) e s (hlen.trans_le (by decide))
    rw [htarget] at houtcome
    obtain ⟨_, _, hwrong, hnone, hack⟩ := houtcome
    rw [exec_gfAck]
    refine ⟨hwrong hlen.ge rfl, fun hg hn => hnone hlen.ge rfl hg (congrArg BitVec.toNat hn), fun hg hn => ?_⟩
    exact hack hlen.ge rfl hg fun h0 => hn (BitVec.eq_of_toNat_eq h0)

/-! ## GF_BUILD_CMD -/

theorem length_pairsBytes (pairs : List (Byte × Bytes)) :
    (pairsBytes pairs).length = (pairs.map fun e => 1 + e.2.length).sum := by
  rw [pairsBytes, List.length_flatMap]
  congr 2
  funext e
  rw [List.length_cons, Nat.add_comm]

theorem leBytes_three (n : Nat) :
    leBytes 3 n = [BitVec.ofNat 8 (n % 256), BitVec.ofNat 8 (n / 256 % 256), BitVec.ofNat 8 (n / 65536 % 256)] := by
  have ofNat_mod (k : Nat) : BitVec.ofNat 8 (k % 256) = BitVec.ofNat 8 k := by
    apply BitVec.eq_of_toNat_eq
    simp
  simp only [leBytes, ofNat_mod, Nat.div_div_eq_div_mul]

/-- GF_BUILD_CMD's bounds in order (R110), on the numbers the bounds are of. -/
theorem gfBuildCmd_eq (cfg : Config) (g : Pgn) (pr : Byte) (pairs : List (Byte × Bytes)) :
    gfBuildCmd cfg g pr pairs =
      if 255 < pairs.length then .error .tooManyPairs
      else if ∃ e ∈ pairs, e.2 = [] then .error .emptyValue
      else if 223 < 6 + (pairs.map fun e => 1 + e.2.length).sum then .error .tooLong
      else .ok (cfg.gfFuncCommand :: (leBytes 3 g.toNat ++ pr :: BitVec.ofNat 8 pairs.length :: pairsBytes pairs)) := by
  simp only [gfBuildCmd, List.any_eq_true, List.isEmpty_iff, length_pairsBytes, payloadMax]

theorem exec_gfBuildCmd (g : Pgn) (pr : Byte) (pairs : List (Byte × Bytes)) (s : State) :
    exec (.gfBuildCmd g pr pairs) s = answer s (respond .payload (gfBuildCmd Config.current g pr pairs)) :=
  rfl

/-- Settles O28: the branches of `gfBuildCmd_eq`. -/
theorem gfBuildCmdEnvelope : Obligations.GfBuildCmdEnvelope := by
  unfold Obligations.GfBuildCmdEnvelope
  intro g pr pairs s total
  rw [exec_gfBuildCmd, gfBuildCmd_eq]
  have nonempty (h : ∀ e ∈ pairs, e.2 ≠ []) : ¬ ∃ e ∈ pairs, e.2 = [] := fun ⟨e, he, h0⟩ => h e he h0
  refine ⟨fun hmany => ?tooMany, fun hfew hempty => ?emptyValue, fun hfew hfull hlong => ?tooLong,
    fun hfew hfull hshort => ⟨_, ?built, ?length, rfl⟩⟩
  case tooMany =>
    rw [if_pos hmany]
    rfl
  case emptyValue =>
    rw [if_neg (Nat.not_lt.2 hfew), if_pos hempty]
    rfl
  case tooLong =>
    rw [if_neg (Nat.not_lt.2 hfew), if_neg (nonempty hfull), if_pos hlong]
    rfl
  case built =>
    rw [if_neg (Nat.not_lt.2 hfew), if_neg (nonempty hfull), if_neg (Nat.not_lt.2 hshort), leBytes_three, pairsBytes,
      List.flatMap_def]
    rfl
  case length =>
    have hpairs : (pairs.map fun e => [e.1] ++ e.2).flatten.length = (pairs.map fun e => 1 + e.2.length).sum := by
      rw [← List.flatMap_def]
      exact length_pairsBytes pairs
    rw [List.length_append, hpairs]
    rfl

end Sys2Proof.Proofs

/-! # Bus identifier and builders (40_header_codec.md R82, 41_builders.md)

The identifier's fields as numbers, and the payload that BUILD's writes leave. -/

namespace Sys2Proof.Proofs
open Sys2Proof Sys2Proof.Machine Sys2Proof.Codec Sys2Proof.Spec

/-! ## MAKE_ID -/

/-- The identifier with no destination merged, as a number (R51, R82). -/
theorem toNat_makeId_broadcast {priority : Byte} (h : priority.toNat ≤ 7) (pgn : Pgn) (source : Byte) :
    (makeId priority pgn source broadcast).toNat =
      priority.toNat * 2 ^ 26 + pgn.toNat % 2 ^ 18 * 2 ^ 8 + source.toNat := by
  have hs : source.toNat < 2 ^ 8 := source.isLt
  have hg : pgn.toNat % 2 ^ 18 < 2 ^ 18 := Nat.mod_lt _ (by decide)
  have hpgn : (pgn &&& 0x3FFFF#32).toNat = pgn.toNat % 2 ^ 18 := Nat.and_two_pow_sub_one_eq_mod pgn.toNat 18
  have hp8 : priority.toNat <<< 26 % 2 ^ 32 = priority.toNat <<< 26 := by rw [Nat.shiftLeft_eq]; omega
  have hg8 : (pgn.toNat % 2 ^ 18) <<< 8 % 2 ^ 32 = (pgn.toNat % 2 ^ 18) <<< 8 := by rw [Nat.shiftLeft_eq]; omega
  have hps : priority.toNat % 2 ^ 32 = priority.toNat := by omega
  have hss : source.toNat % 2 ^ 32 = source.toNat := by omega
  have hlow : (pgn.toNat % 2 ^ 18) <<< 8 < 2 ^ 26 := by rw [Nat.shiftLeft_eq]; omega
  simp only [makeId, ne_eq, not_true_eq_false, if_false, BitVec.toNat_or, BitVec.toNat_shiftLeft, BitVec.toNat_setWidth,
    hpgn, hps, hss, hp8, hg8]
  have hfields : priority.toNat <<< 26 + (pgn.toNat % 2 ^ 18) <<< 8 =
      (priority.toNat * 2 ^ 18 + pgn.toNat % 2 ^ 18) <<< 8 := by
    rw [Nat.shiftLeft_eq, Nat.shiftLeft_eq, Nat.shiftLeft_eq]
    omega
  rw [← Nat.shiftLeft_add_eq_or_of_lt hlow, hfields, ← Nat.shiftLeft_add_eq_or_of_lt hs, Nat.shiftLeft_eq]
  omega

/-- A destination other than 255 is OR-ed into bits 15:8 (D5). -/
theorem toNat_makeId {priority : Byte} (h : priority.toNat ≤ 7) (pgn : Pgn) (source destination : Byte) :
    (makeId priority pgn source destination).toNat =
      (priority.toNat * 2 ^ 26 + pgn.toNat % 2 ^ 18 * 2 ^ 8 + source.toNat) |||
        (if destination.toNat = 255 then 0 else destination.toNat) * 2 ^ 8 := by
  rw [← toNat_makeId_broadcast h]
  split
  next hall =>
    obtain rfl : destination = broadcast := BitVec.eq_of_toNat_eq hall
    rw [Nat.zero_mul, Nat.or_zero]
  next hone =>
    have hne : destination ≠ broadcast := fun e => hone (congrArg BitVec.toNat e)
    have hmerged : makeId priority pgn source destination =
        makeId priority pgn source broadcast ||| destination.setWidth 32 <<< 8 := by
      rw [makeId, makeId, if_pos hne, if_neg (not_not.2 rfl)]
    have hshift : (destination.setWidth 32 <<< 8).toNat = destination.toNat * 2 ^ 8 := by
      rw [BitVec.toNat_shiftLeft, BitVec.toNat_setWidth, Nat.shiftLeft_eq]
      omega
    rw [hmerged, BitVec.toNat_or, hshift]

/-- The fields of an identifier, as R51 lays them out. -/
theorem idFields {priority pgn18 source : Nat} (hpgn : pgn18 < 2 ^ 18) (hsource : source < 2 ^ 8) :
    (priority * 2 ^ 26 + pgn18 * 2 ^ 8 + source) / 2 ^ 26 = priority ∧
    (priority * 2 ^ 26 + pgn18 * 2 ^ 8 + source) / 2 ^ 16 % 2 ^ 10 = pgn18 / 2 ^ 8 ∧
    (priority * 2 ^ 26 + pgn18 * 2 ^ 8 + source) / 2 ^ 8 % 2 ^ 8 = pgn18 % 2 ^ 8 ∧
    (priority * 2 ^ 26 + pgn18 * 2 ^ 8 + source) % 2 ^ 8 = source := by
  omega

/-- A byte in bits 15:8 is in no other field of an identifier. -/
theorem idFields_merged {merged : Nat} (h : merged < 2 ^ 8) :
    merged * 2 ^ 8 / 2 ^ 26 = 0 ∧ merged * 2 ^ 8 / 2 ^ 16 % 2 ^ 10 = 0 ∧
    merged * 2 ^ 8 / 2 ^ 8 % 2 ^ 8 = merged ∧ merged * 2 ^ 8 % 2 ^ 8 = 0 := by
  omega

theorem exec_makeId {priority : Byte} (h : priority.toNat ≤ 7) (pgn : Pgn) (source destination : Byte) (s : State) :
    exec (.makeId priority pgn source destination) s =
      answers s (.id (makeId priority pgn source destination)) :=
  answerIf_of (decide_eq_true h)

theorem exec_busId (priority : BitVec 3) (pgn18 : BitVec 18) (source : Byte) (s : State) :
    exec (.busId priority pgn18 source) s =
      answers s (.id (makeId (priority.setWidth 8) (pgn18.setWidth 32) source broadcast)) :=
  rfl

/-- Settles O20: the identifier as a number, the merged destination OR-ed to it field by field. -/
theorem makeIdFields : Obligations.MakeIdFields := by
  unfold Obligations.MakeIdFields
  constructor
  · intro priority source destination pgn s h
    refine ⟨_, exec_makeId h pgn source destination s, ?_⟩
    have hpgnHigh : pgn.toNat % 2 ^ 18 / 2 ^ 8 = pgn.toNat / 2 ^ 8 % 2 ^ 10 := by omega
    have hpgnLow : pgn.toNat % 2 ^ 18 % 2 ^ 8 = pgn.toNat % 2 ^ 8 := Nat.mod_mod_of_dvd _ (by decide)
    have hmerged : (if destination.toNat = 255 then 0 else destination.toNat) < 2 ^ 8 := by split <;> omega
    obtain ⟨hpriority, hhigh, hlow, hsource⟩ := idFields (priority := priority.toNat)
      (Nat.mod_lt pgn.toNat (by decide : 0 < 2 ^ 18)) source.isLt
    obtain ⟨hmerged26, hmerged16, hmerged8, hmerged0⟩ := idFields_merged hmerged
    rw [toNat_makeId h]
    simp only [Nat.or_div_two_pow, Nat.or_mod_two_pow, hpriority, hhigh, hlow, hsource, hpgnHigh, hpgnLow, hmerged26,
      hmerged16, hmerged8, hmerged0, Nat.or_zero, and_self]
  · intro priority pgn18 source s
    rw [exec_busId]
    have hp := priority.isLt
    have hg := pgn18.isLt
    have hnum := toNat_makeId_broadcast (priority := priority.setWidth 8) (by simp; omega) (pgn18.setWidth 32) source
    have hid : makeId (priority.setWidth 8) (pgn18.setWidth 32) source broadcast =
        BitVec.ofNat 32 (priority.toNat * 2 ^ 26 + pgn18.toNat * 2 ^ 8 + source.toNat) := by
      apply BitVec.eq_of_toNat_eq
      rw [hnum, BitVec.toNat_ofNat, BitVec.toNat_setWidth, BitVec.toNat_setWidth]
      omega
    rw [hid]

/-! ## The builders -/

/-- The bytes of a field list, each field little-endian. -/
def fieldBytes (fields : List (Nat × Nat)) : Bytes :=
  fields.flatMap fun e => leBytes e.1 e.2

theorem fieldBytes_cons (w v : Nat) (fields : List (Nat × Nat)) :
    fieldBytes ((w, v) :: fields) = leBytes w v ++ fieldBytes fields :=
  rfl

theorem memWrite_zeroFill (pre : Bytes) (w v n : Nat) :
    memWrite (pre ++ zeroFill (w + n)) pre.length w v = (pre ++ leBytes w v) ++ zeroFill n := by
  rw [memWrite, overwrite, List.take_left, leBytes_length, List.drop_length_add_append, zeroFill, List.drop_replicate,
    Nat.add_sub_cancel_left, zeroFill]

/-- BUILD's writes put the fields' bytes over as many of the zeros from the cursor on (R90). -/
theorem writeFields_zeroFill (fields : List (Nat × Nat)) (pre : Bytes) (pad : Nat) :
    writeFields fields pre.length (pre ++ zeroFill ((fieldBytes fields).length + pad)) =
      pre ++ (fieldBytes fields ++ zeroFill pad) := by
  induction fields generalizing pre with
  | nil => rw [fieldBytes, List.flatMap_nil, List.length_nil, Nat.zero_add, List.nil_append, writeFields]
  | cons e fields ih =>
    obtain ⟨w, v⟩ := e
    have hcursor : pre.length + w = (pre ++ leBytes w v).length := by rw [List.length_append, leBytes_length]
    rw [fieldBytes_cons, writeFields, List.length_append, leBytes_length, Nat.add_assoc, memWrite_zeroFill, hcursor, ih,
      List.append_assoc, List.append_assoc]

theorem fieldBytes_append (fields more : List (Nat × Nat)) :
    fieldBytes (fields ++ more) = fieldBytes fields ++ fieldBytes more :=
  List.flatMap_append

theorem fieldBytes_field8 (bs : Bytes) : fieldBytes (bs.map field8) = bs := by
  induction bs with
  | nil => rfl
  | cons b bs ih =>
    rw [List.map_cons, field8, fieldBytes_cons, leBytes_one, ih]
    rfl

theorem fieldBytes_field16 (v : BitVec 16) :
    fieldBytes [field16 v] = [BitVec.ofNat 8 (v.toNat % 256), BitVec.ofNat 8 (v.toNat / 256)] := by
  have hlow : BitVec.ofNat 8 (v.toNat % 256) = BitVec.ofNat 8 v.toNat := BitVec.eq_of_toNat_eq (by simp)
  rw [hlow]
  rfl

/-- BUILD's payload: the vendor header, the tag, the fields' bytes, and zeros up to the built length (R54, R90). -/
theorem build_eq (cfg : Config) {tag : PropTag} (dest src : Byte) {fields : List (Nat × Nat)} {pad : Nat}
    (h : builtLength tag = 3 + (fieldBytes fields).length + pad) :
    build cfg tag dest src fields =
      ⟨makeId cfg.propPriorityByte cfg.propPgn src dest,
        0xE8 :: 0x85 :: tagCode tag :: (fieldBytes fields ++ zeroFill pad)⟩ := by
  have hheader : packHdr vendorManufacturer vendorIndustry = (0xE8, 0x85) := by decide
  have hall : fieldBytes (([0xE8, 0x85, tagCode tag] : Bytes).map field8 ++ fields) =
      [0xE8, 0x85, tagCode tag] ++ fieldBytes fields := by
    rw [fieldBytes_append, fieldBytes_field8]
  have hlen : ([0xE8, 0x85, tagCode tag] ++ fieldBytes fields).length + pad = builtLength tag := by
    rw [h, List.length_append]
    rfl
  have hwritten := writeFields_zeroFill (([0xE8, 0x85, tagCode tag] : Bytes).map field8 ++ fields) [] pad
  rw [hall, hlen] at hwritten
  rw [build, hheader]
  exact congrArg (Frame.mk _) hwritten

theorem answer_build {tag : PropTag} {fields : List (Nat × Nat)} {bs : Bytes} (pad : Nat)
    (hbytes : fieldBytes fields = bs) (hlen : builtLength tag = 3 + bs.length + pad) (dest src : Byte) (s : State) :
    answer s (.ok (.frame (build Config.current tag dest src fields))) =
      answers s (.frame ⟨makeId Config.current.propPriorityByte Config.current.propPgn src dest,
        0xE8 :: 0x85 :: tagCode tag :: (bs ++ zeroFill pad)⟩) := by
  subst hbytes
  rw [build_eq Config.current dest src hlen]
  rfl

/-- Settles O22: each builder's fields are bytes, but for the PWM's transition time, and `build_eq` lays them out. -/
theorem buildersAnswerTheLayouts : Obligations.BuildersAnswerTheLayouts := by
  unfold Obligations.BuildersAnswerTheLayouts
  intro dest src s
  have hpriority : Config.current.propPriorityByte.toNat ≤ 7 := by
    have := Config.current.propPriority.isLt
    rw [Config.propPriorityByte, BitVec.toNat_setWidth]
    omega
  refine ⟨_, exec_makeId hpriority _ src dest s, ?simpleAction, ?stateInfo, ?customHsb, ?startPattern, ?pwm⟩
  case simpleAction =>
    exact fun action switch => answer_build 1 (fieldBytes_field8 [action, switch]) rfl dest src s
  case stateInfo =>
    exact fun switch state type => answer_build 1 (fieldBytes_field8 [switch, state, type]) rfl dest src s
  case customHsb =>
    exact fun action switch hue sat bright =>
      answer_build 0 (fieldBytes_field8 [action, switch, hue, sat, bright]) rfl dest src s
  case startPattern =>
    exact fun switch pattern => answer_build 1 (fieldBytes_field8 [switch, pattern]) rfl dest src s
  case pwm =>
    intro channel duty time
    have hbytes : fieldBytes ([channel, duty].map field8 ++ [field16 time]) =
        [channel, duty, BitVec.ofNat 8 (time.toNat % 256), BitVec.ofNat 8 (time.toNat / 256)] := by
      rw [fieldBytes_append, fieldBytes_field8, fieldBytes_field16]
      rfl
    exact answer_build 1 hbytes rfl dest src s

end Sys2Proof.Proofs

/-! # Decoding inverts encoding (30_encoding.md)

An operation's operands are read back one after another, and a wire row's payload matches its own row. -/

namespace Sys2Proof.Proofs
open Sys2Proof Sys2Proof.Machine Sys2Proof.Codec Sys2Proof.Spec

/-! ## Operations -/

section Decodes

variable {α β γ δ ε : Type}

/-- `f` reads `w` as `x`, whatever follows it. -/
def Decodes (f : Bytes → Except Reject β) (w : Bytes) (x : β) : Prop :=
  ∀ rest, f (w ++ rest) = .ok x

variable {a : Reader α} {b : Reader β} {c : Reader γ} {d : Reader δ} {e : Reader ε}
variable {wa wb wc wd we : Bytes} {x : α} {y : β} {z : γ} {u : δ} {v : ε}

/-- An operand is read back, and the reader of the operands after it goes on where it ends. -/
theorem Codes.decodes_bind {f : α × Bytes → Except Reject β} {y : β} (ha : Codes a wa x)
    (hf : Decodes (fun bs => f (x, bs)) wb y) : Decodes (fun bs => a bs >>= f) (wa ++ wb) y := by
  intro rest
  simp only [List.append_assoc, ha.read]
  exact hf rest

theorem decodes_instr1 {mk : α → Instr} (ha : Codes a wa x) : Decodes (instr1 a mk) wa (mk x) := by
  intro rest
  simp only [instr1, ha.read]
  rfl

theorem decodes_instr2 {mk : α → β → Instr} (ha : Codes a wa x) (hb : Codes b wb y) :
    Decodes (instr2 a b mk) (wa ++ wb) (mk x y) :=
  ha.decodes_bind (decodes_instr1 hb)

theorem decodes_instr3 {mk : α → β → γ → Instr} (ha : Codes a wa x) (hb : Codes b wb y) (hc : Codes c wc z) :
    Decodes (instr3 a b c mk) (wa ++ (wb ++ wc)) (mk x y z) :=
  ha.decodes_bind (decodes_instr2 hb hc)

theorem decodes_instr4 {mk : α → β → γ → δ → Instr} (ha : Codes a wa x) (hb : Codes b wb y) (hc : Codes c wc z)
    (hd : Codes d wd u) : Decodes (instr4 a b c d mk) (wa ++ (wb ++ (wc ++ wd))) (mk x y z u) :=
  ha.decodes_bind (decodes_instr3 hb hc hd)

theorem decodes_instr5 {mk : α → β → γ → δ → ε → Instr} (ha : Codes a wa x) (hb : Codes b wb y) (hc : Codes c wc z)
    (hd : Codes d wd u) (he : Codes e we v) :
    Decodes (instr5 a b c d e mk) (wa ++ (wb ++ (wc ++ (wd ++ we)))) (mk x y z u v) :=
  ha.decodes_bind (decodes_instr4 hb hc hd he)

end Decodes

theorem codes_writeTimestamp (t : Timestamp) : Codes readTimestamp (writeNat t.val) t :=
  ⟨readTimestamp_writeNat t, cut_writeTimestamp t⟩

/-- A well-formed operation's request is decoded to the operation, whatever follows its last operand. -/
theorem decodes_encode (cfg : Config) (i : Instr) (hwf : i.wf = true) (hop : (encode cfg i).port = .op) :
    Decodes decodeOp (encode cfg i).bytes i := by
  cases i with
  | simpleAction | stateInfo | customHsb | startPattern | outputChannelPwm | gfCommand | gfAck | propHeader | busId =>
    cases hop
  | packHdr m n => exact decodes_instr2 (codes_write16 m) (codes_byte n)
  | unpackHdr b0 b1 => exact decodes_instr2 (codes_byte b0) (codes_byte b1)
  | makeId prio pgn src dest =>
    exact decodes_instr4 (codes_byte prio) (codes_write32 pgn) (codes_byte src) (codes_byte dest)
  | isValid p | getPropId p | parseProprietary p | parseSimpleAction p | parseStateInfo p | parseCustomHsb p
  | parseStartPattern p | parseOutputChannelPwm p =>
    exact decodes_instr1 (codes_writeBytes p)
  | createSimpleAction dest src action switch =>
    exact decodes_instr4 (codes_byte dest) (codes_byte src) (codes_byte action) (codes_byte switch)
  | createStateInfo dest src switch state type =>
    exact decodes_instr5 (codes_byte dest) (codes_byte src) (codes_byte switch) (codes_byte state)
      (codes_byte type)
  | createCustomHsb dest src action switch hue sat bright =>
    exact (codes_byte dest).decodes_bind ((codes_byte src).decodes_bind (decodes_instr5 (codes_byte action)
      (codes_byte switch) (codes_byte hue) (codes_byte sat) (codes_byte bright)))
  | createStartPattern dest src switch pattern =>
    exact decodes_instr4 (codes_byte dest) (codes_byte src) (codes_byte switch) (codes_byte pattern)
  | createOutputChannelPwm dest src channel duty time =>
    exact decodes_instr5 (codes_byte dest) (codes_byte src) (codes_byte channel) (codes_byte duty)
      (codes_write16 time)
  | gfBuildCmd pgn prio pairs =>
    exact decodes_instr3 (codes_write32 pgn) (codes_byte prio) (codes_writeList fun e _ => codes_writePair e)
  | gfParseAck p pgn => exact decodes_instr2 (codes_writeBytes p) (codes_write32 pgn)
  | extractRaw p start n =>
    have hn : bitLengthOk n = true := (Bool.and_eq_true_iff.1 hwf).2
    exact decodes_instr3 (codes_writeBytes p) (codes_write32 start) (codes_bitLength hn)
  | signExtend raw n signed | checkAvailable raw n signed =>
    exact decodes_instr3 (codes_write64 raw) (codes_bitLength hwf) (codes_writeBool signed)
  | extract p sd | decodeSignal p sd =>
    have hsd : signalDefOk sd = true := (Bool.and_eq_true_iff.1 hwf).2
    exact decodes_instr2 (codes_writeBytes p) (codes_writeSignalDef hsd)
  | scale raw sd | enumLookup raw sd =>
    exact decodes_instr2 (codes_write64 raw) (codes_writeSignalDef hwf)
  | decodeMessage m => exact decodes_instr1 (codes_writeMessage m)
  | readU8 p cur | readU16 p cur | readU32 p cur | readVarString p cur =>
    exact decodes_instr2 (codes_writeBytes p) (codes_writeNat cur)
  | splitBits byte lo width =>
    obtain ⟨hpos, hfit⟩ : 1 ≤ width ∧ lo + width ≤ 8 := by simpa [Instr.wf, splitOk] using hwf
    exact decodes_instr3 (codes_byte byte) (codes_writeNat lo) (codes_writeCount hpos (by omega))
  | readRepeated p cur recSize fields =>
    obtain ⟨hbounds, hfields⟩ := Bool.and_eq_true_iff.1 hwf
    have hsize : recSize - 1 + 1 = recSize := Nat.sub_add_cancel (of_decide_eq_true (Bool.and_eq_true_iff.1 hbounds).2)
    have hdec := decodes_instr4 (mk := fun p cur sizePred fields => .readRepeated p cur (sizePred + 1) fields)
      (codes_writeBytes p) (codes_writeNat cur) (codes_writeNat (recSize - 1))
      (codes_writeList fun sd hsd => codes_writeSignalDef (List.all_eq_true.1 hfields sd hsd))
    rw [hsize] at hdec
    exact hdec
  | writeU8 p cur v => exact decodes_instr3 (codes_writeBytes p) (codes_writeNat cur) (codes_byte v)
  | writeU16 p cur v => exact decodes_instr3 (codes_writeBytes p) (codes_writeNat cur) (codes_write16 v)
  | writeU24 p cur v => exact decodes_instr3 (codes_writeBytes p) (codes_writeNat cur) (codes_write32 v)
  | observe m now => exact decodes_instr2 (codes_writeMessage m) (codes_writeTimestamp now)
  | recomputeConflicts | clear => exact fun _ => rfl
  | hasConflict src => exact decodes_instr1 (codes_byte src)
  | conflictsForPgn pgn => exact decodes_instr1 (codes_write32 pgn)

/-! ## Wire rows -/

section BusId

variable (priority : BitVec 3) (pgn18 : BitVec 18) (source : Byte)

/-- An identifier's layout is split into the fields it was put together from (R51). -/
theorem busIdOf_append : busIdOf (0#3 ++ priority ++ pgn18 ++ source) = .busId priority pgn18 source := by
  have hpriority : (0#3 ++ priority ++ pgn18 ++ source : BitVec 32).extractLsb' 26 3 = priority := by
    rw [BitVec.extractLsb'_append_eq_of_le (by decide), BitVec.extractLsb'_append_eq_of_le (by decide),
      BitVec.extractLsb'_append_eq_of_add_le (by decide), BitVec.extractLsb'_eq_self]
  have hpgn : (0#3 ++ priority ++ pgn18 ++ source : BitVec 32).extractLsb' 8 18 = pgn18 := by
    rw [BitVec.extractLsb'_append_eq_of_le (by decide), BitVec.extractLsb'_append_eq_of_add_le (by decide),
      BitVec.extractLsb'_eq_self]
  have hsource : (0#3 ++ priority ++ pgn18 ++ source : BitVec 32).extractLsb' 0 8 = source := by
    rw [BitVec.extractLsb'_append_eq_of_add_le (by decide), BitVec.extractLsb'_eq_self]
  rw [busIdOf, hpriority, hpgn, hsource]

theorem toNat_busId_append_lt : (0#3 ++ priority ++ pgn18 ++ source : BitVec 32).toNat < 2 ^ 29 := by
  rw [← extractLsb'_top_eq_zero_iff, BitVec.extractLsb'_append_eq_of_le (by decide),
    BitVec.extractLsb'_append_eq_of_le (by decide), BitVec.extractLsb'_append_eq_of_le (by decide)]
  rfl

end BusId

theorem decodeBusId_write32 {id : BitVec 32} (h : id.toNat < 2 ^ 29) : decodeBusId (write32 id) = .ok (busIdOf id) := by
  have hlen : 4 ≤ (write32 id).length := (leBytes_length 4 id.toNat).ge
  have hnum : numberAt (write32 id) 0 4 = id.toNat := by
    have hread := numberAt_leBytes 4 id.toNat []
    rw [List.append_nil] at hread
    exact hread.trans (Nat.mod_eq_of_lt id.isLt)
  rw [decodeBusId_of_length hlen, hnum, if_pos h, BitVec.ofNat_toNat, BitVec.setWidth_eq]

/-- The request of a well-formed wire row is decoded to the row, where the parsers accept the built lengths. -/
theorem decode_encode_wire {cfg : Config} (hmin : ∀ t, (cfg.parseMinLen t).val ≤ builtLength t) {i : Instr}
    (hwf : i.wf = true) (hport : (encode cfg i).port ≠ .op) : decode cfg (encode cfg i) = .ok i := by
  cases i with
  | simpleAction action switch => exact decodeProp_built (fields := [action, switch, 0]) (hmin .simpleAction) rfl
  | stateInfo switch state type => exact decodeProp_built (fields := [switch, state, type, 0]) (hmin .stateInfo) rfl
  | customHsb action switch hue sat bright =>
    exact decodeProp_built (fields := [action, switch, hue, sat, bright]) (hmin .customHsb) rfl
  | startPattern switch pattern => exact decodeProp_built (fields := [switch, pattern, 0]) (hmin .startPattern) rfl
  | outputChannelPwm channel duty time =>
    obtain ⟨b0, b1, rfl, hbytes⟩ := exists_write16 time
    show decodeProp cfg (0xE8 :: 0x85 :: 0x07 :: ([channel, duty] ++ write16 (b1 ++ b0) ++ [0])) = _
    rw [hbytes]
    exact decodeProp_built (fields := [channel, duty, b0, b1, 0]) (hmin .outputChannelPwm) rfl
  | gfCommand target prio count pairBytes =>
    have hok : payloadOk (cfg.gfFuncCommand :: (write24 target ++ prio :: count :: pairBytes)) = true :=
      (payloadOk_gfCommand _ prio count target pairBytes).trans hwf
    obtain ⟨b0, b1, b2, rfl, hbytes⟩ := exists_write24 target
    show decodeGroupFunction cfg 0 (cfg.gfFuncCommand :: (write24 (b2 ++ b1 ++ b0) ++ prio :: count :: pairBytes)) = _
    rw [hbytes] at hok ⊢
    exact decodeGroupFunction_command hok
  | gfAck expected target count entry1 =>
    obtain ⟨b0, b1, b2, rfl, hbytes⟩ := exists_write24 target
    show decodeGroupFunction cfg expected (2 :: (write24 (b2 ++ b1 ++ b0) ++ [0, count, entry1])) = _
    rw [hbytes]
    exact decodeGroupFunction_ack rfl
  | propHeader => rfl
  | busId priority pgn18 source =>
    refine (decodeBusId_write32 (toNat_busId_append_lt priority pgn18 source)).trans ?_
    rw [busIdOf_append]
  | _ => exact absurd rfl hport

/-- Settles O2: the machine's minimum lengths by evaluation; a wire row by `decode_encode_wire`, an operation, with any
bytes after it, by `decodes_encode`. -/
theorem decodeInvertsEncode : Obligations.DecodeInvertsEncode := by
  unfold Obligations.DecodeInvertsEncode
  refine ⟨fun t => by cases t <;> decide, ?_⟩
  intro cfg i rest hmin hwf hrest
  by_cases hop : (encode cfg i).port = .op
  · rw [hop]
    exact decodes_encode cfg i hwf hop rest
  · obtain rfl := hrest.resolve_right hop
    rw [List.append_nil]
    exact decode_encode_wire hmin hwf hop

/-! ## Words of the spec, and what is no instruction -/

/-- Settles O1: each word is decoded by evaluation; no open configuration value is read on the way. -/
theorem specWordsDecode : Obligations.SpecWordsDecode := by
  unfold Obligations.SpecWordsDecode
  exact ⟨rfl, rfl, rfl, rfl, rfl, rfl, rfl, rfl, rfl, rfl, rfl⟩

theorem step_idle {s : State} (h : s.pending = []) : step s = .next s := by
  simp only [step, fetch, h]

/-- A select byte outside the map has no operand readers (R63). -/
theorem decodeOperands_unknownOp {op : Byte} (h : op.toNat ∉ opCodes) (operands : Bytes) :
    decodeOperands op operands = .error (.unknownOp op) := by
  unfold decodeOperands
  split
  case h_41 => rfl
  all_goals
    next hop => exact absurd (hop ▸ by decide) h

/-- Settles O4: `step_idle`, and the decoder's last row. -/
theorem idleStepAndUnknownOp : Obligations.IdleStepAndUnknownOp := by
  unfold Obligations.IdleStepAndUnknownOp
  exact ⟨fun _ => step_idle, fun _ _ operands _ hp hop =>
    step_of_decode_error hp (decodeOperands_unknownOp hop operands)⟩

end Sys2Proof.Proofs

/-! # Header codec (40_header_codec.md R80, R81, R83 to R85)

The header's bytes and fields as numbers, the two round trips, and the validity gate. -/

namespace Sys2Proof.Proofs
open Sys2Proof Sys2Proof.Machine Sys2Proof.Codec Sys2Proof.Spec

/-! ## PACK_HDR -/

theorem exec_packHdr (m : BitVec 16) (i : Byte) (s : State) :
    exec (.packHdr m i) s = answers s (.headerBytes (packHdr m i).1 (packHdr m i).2) :=
  rfl

/-- The header's 16 bits as a number: the manufacturer from bit 0 on, the industry from bit 13 on (R52). -/
theorem toNat_packCombined (m : BitVec 16) (i : Byte) :
    (packCombined m i).toNat = m.toNat % 2048 + 8192 * (i.toNat % 8) := by
  have hm : (m &&& 0x7FF#16).toNat = m.toNat % 2048 := Nat.and_two_pow_sub_one_eq_mod m.toNat 11
  have hi : (i &&& 0x7#8).toNat = i.toNat % 8 := Nat.and_two_pow_sub_one_eq_mod i.toNat 3
  have hlow : m.toNat % 2048 < 2 ^ 13 := by omega
  have hwidth : i.toNat % 8 % 2 ^ 16 = i.toNat % 8 := by omega
  have hfits : (i.toNat % 8) <<< 13 % 2 ^ 16 = (i.toNat % 8) <<< 13 := by rw [Nat.shiftLeft_eq]; omega
  rw [packCombined, BitVec.toNat_or, BitVec.toNat_shiftLeft, BitVec.toNat_setWidth, hm, hi, hwidth, hfits, Nat.or_comm,
    ← Nat.shiftLeft_add_eq_or_of_lt hlow, Nat.shiftLeft_eq]
  omega

/-- PACK_HDR's two bytes as numbers (R80). -/
theorem packHdr_eq (m : BitVec 16) (i : Byte) :
    packHdr m i =
      (BitVec.ofNat 8 (m.toNat % 256), BitVec.ofNat 8 (m.toNat / 256 % 8 + 32 * (i.toNat % 8))) := by
  refine Prod.ext (BitVec.eq_of_toNat_eq ?_) (BitVec.eq_of_toNat_eq ?_)
  · show (packCombined m i).toNat >>> 0 % 2 ^ 8 = _
    rw [toNat_packCombined, Nat.shiftRight_zero, BitVec.toNat_ofNat]
    omega
  · show (packCombined m i).toNat >>> 8 % 2 ^ 8 = _
    rw [toNat_packCombined, Nat.shiftRight_eq_div_pow, BitVec.toNat_ofNat]
    omega

/-- Settles O17: the two bytes by `packHdr_eq`. -/
theorem packHdrBytes : Obligations.PackHdrBytes := by
  unfold Obligations.PackHdrBytes
  intro m i s
  rw [exec_packHdr, packHdr_eq]

/-! ## UNPACK_HDR -/

theorem exec_unpackHdr (b0 b1 : Byte) (s : State) :
    exec (.unpackHdr b0 b1) s = answers s (.headerFields (unpackHdr b0 b1).1 (unpackHdr b0 b1).2) :=
  rfl

/-- UNPACK_HDR's two fields, each from the bits of byte1 that it reads (R81). -/
theorem unpackHdr_eq (b0 b1 : Byte) :
    unpackHdr b0 b1 = (BitVec.ofNat 16 (b0.toNat + 256 * (b1.toNat % 8)), BitVec.ofNat 8 (b1.toNat / 32)) := by
  have hnum : numberAt [b0, b1] 0 2 = b0.toNat + 256 * b1.toNat := rfl
  have hmanufacturer : manufacturerOf [b0, b1] = b0.toNat + 256 * (b1.toNat % 8) := by
    rw [manufacturerOf, hnum]
    omega
  have hindustry : industryOf [b0, b1] = b1.toNat / 32 := by
    rw [industryOf, hnum]
    omega
  rw [unpackHdr_eq_fields b0 b1 [], hmanufacturer, hindustry]

/-- Settles O18: the two fields by `unpackHdr_eq`. -/
theorem unpackHdrFields : Obligations.UnpackHdrFields := by
  unfold Obligations.UnpackHdrFields
  intro b0 b1 s
  rw [exec_unpackHdr, unpackHdr_eq]

/-! ## The round trips -/

/-- R85 (1). -/
theorem unpackHdr_packHdr {m : BitVec 16} {i : Byte} (hm : m.toNat < 2048) (hi : i.toNat < 8) :
    unpackHdr (packHdr m i).1 (packHdr m i).2 = (m, i) := by
  rw [packHdr_eq, unpackHdr_eq]
  refine Prod.ext (BitVec.eq_of_toNat_eq ?_) (BitVec.eq_of_toNat_eq ?_)
  · simp only [BitVec.toNat_ofNat]
    omega
  · simp only [BitVec.toNat_ofNat]
    omega

/-- Byte1 with its two reserved bits, 4:3, cleared: `toNat_and_headerMask`, of which it is the high byte. -/
theorem toNat_and_reservedMask (b : Byte) : (b &&& 0xE7#8).toNat = b.toNat % 8 + 32 * (b.toNat / 32) := by
  have hmask : ((b ++ 0#8) &&& 0xE7FF#16).toNat = 256 * (b &&& 0xE7#8).toNat := by
    have happ : (b ++ 0#8) &&& 0xE7FF#16 = (b &&& 0xE7#8) ++ 0#8 := BitVec.and_append (x₂ := 0xE7#8) (y₂ := 0xFF#8)
    rw [happ, toNat_append_byte]
    exact Nat.zero_add _
  have hword : (b ++ 0#8 : BitVec 16).toNat = 256 * b.toNat := (toNat_append_byte b 0#8).trans (Nat.zero_add _)
  rw [toNat_and_headerMask, hword] at hmask
  omega

/-- R85 (2). -/
theorem packHdr_unpackHdr (b0 b1 : Byte) :
    packHdr (unpackHdr b0 b1).1 (unpackHdr b0 b1).2 = (b0, b1 &&& 0xE7#8) := by
  rw [unpackHdr_eq, packHdr_eq]
  refine Prod.ext (BitVec.eq_of_toNat_eq ?_) (BitVec.eq_of_toNat_eq ?_)
  · simp only [BitVec.toNat_ofNat]
    omega
  · simp only [BitVec.toNat_ofNat, toNat_and_reservedMask]
    omega

/-- Settles O19: `unpackHdr_packHdr` and `packHdr_unpackHdr`, through the machine. -/
theorem headerRoundTrips : Obligations.HeaderRoundTrips := by
  unfold Obligations.HeaderRoundTrips
  constructor
  · intro m i s hm hi
    refine ⟨_, _, exec_packHdr m i s, ?_⟩
    rw [exec_unpackHdr, unpackHdr_packHdr hm hi]
  · intro b0 b1 s
    refine ⟨_, _, exec_unpackHdr b0 b1 s, ?_⟩
    rw [exec_packHdr, packHdr_unpackHdr]

/-! ## The validity gate -/

/-- IS_VALID reads the length and the two header fields, and nothing else (R83, D35). -/
theorem isValid_iff : ∀ p : Bytes, isValid p = true ↔ 3 ≤ p.length ∧ vendor p
  | [] | [_] | [_, _] => by simp [isValid]
  | b0 :: b1 :: tag :: rest => by
    rw [isValid, isVendorHeader_eq_headerMatches, headerMatches_iff_vendor b0 b1 (tag :: rest)]
    simp

theorem getPropId_short : ∀ {p : Bytes}, p.length < 3 → getPropId p = .error .shortPayload
  | [], _ | [_], _ | [_, _], _ => rfl
  | _ :: _ :: _ :: _, h => absurd h (by simp)

theorem getPropId_of_length : ∀ {p : Bytes}, 3 ≤ p.length → getPropId p = .ok (p.getD 2 0)
  | _ :: _ :: _ :: _, _ => rfl

section Gate

variable {p : Bytes}

theorem exec_isValid (hok : payloadOk p = true) (s : State) :
    exec (.isValid p) s = answers s (.valid (isValid p)) :=
  answerIf_of hok

theorem exec_getPropId (hok : payloadOk p = true) (s : State) :
    exec (.getPropId p) s = answer s (respond .tag (getPropId p)) :=
  answerIf_of hok

end Gate

/-- Settles O21: IS_VALID's answer by `isValid_iff`, GET_PROP_ID's by its two regions of lengths. -/
theorem validityGate : Obligations.ValidityGate := by
  unfold Obligations.ValidityGate
  intro p s hlen
  have hok : payloadOk p = true := decide_eq_true hlen
  rw [exec_isValid hok, exec_getPropId hok]
  refine ⟨fun h hv => ?vendor, fun _ hv => ?otherHeader, fun h => ?short, fun h => ?tag, fun h => ?noTag⟩
  case vendor => rw [(isValid_iff p).2 ⟨h, hv⟩]
  case otherHeader => rw [Bool.eq_false_iff.2 fun hvalid => hv ((isValid_iff p).1 hvalid).2]
  case short => rw [Bool.eq_false_iff.2 fun hvalid => Nat.not_le.2 h ((isValid_iff p).1 hvalid).1]
  case tag => rw [getPropId_of_length h]; rfl
  case noTag => rw [getPropId_short h]; rfl

end Sys2Proof.Proofs

/-! # Parsers (42_parsers.md)

What a parser reads, by R100's tests in order; the dispatcher R106; and the laws R107 that tie the two and the builders
together. -/

namespace Sys2Proof.Proofs
open Sys2Proof Sys2Proof.Machine Sys2Proof.Codec Sys2Proof.Spec

theorem tagCode_injective {t u : PropTag} (h : (tagCode t).toNat = (tagCode u).toNat) : t = u := by
  have hcode : tagCode t = tagCode u := BitVec.eq_of_toNat_eq h
  have hsome := tagOfCode_tagCode t
  rw [hcode, tagOfCode_tagCode] at hsome
  exact (Option.some.inj hsome).symm

/-- The tags that no layout has (R60). -/
theorem tagOfCode_eq_none {tag : Byte} (h : tag.toNat ∉ [1, 2, 3, 4, 7]) : tagOfCode tag = none := by
  cases hsome : tagOfCode tag with
  | none => rfl
  | some t =>
    have hlisted : (tagCode t).toNat ∈ [1, 2, 3, 4, 7] := by cases t <;> decide
    rw [tagCode_of_tagOfCode hsome] at h
    exact absurd hlisted h

/-! ## The gate and the fields -/

section Parse

variable {cfg : Config} {t : PropTag} {p : Bytes}

theorem parseAs_short : ∀ {p : Bytes}, p.length < 3 → parseAs cfg t p = .error .shortPayload
  | [], _ | [_], _ | [_, _], _ => rfl
  | _ :: _ :: _ :: _, h => absurd h (by simp)

/-- The gate's tests in order (R100), after the one on the length. -/
theorem parseAs_of_length : ∀ {p : Bytes}, 3 ≤ p.length →
    parseAs cfg t p =
      if isValid p = false then .error .wrongHeader
      else if byteNat p 2 ≠ (tagCode t).toNat then .error .wrongTag
      else if p.length < (cfg.parseMinLen t).val then .error .shortForType
      else .ok (propFields cfg p t)
  | b0 :: b1 :: tag :: rest, _ => by
    have htag : tag ≠ tagCode t ↔ byteNat (b0 :: b1 :: tag :: rest) 2 ≠ (tagCode t).toNat :=
      not_congr BitVec.toNat_inj.symm
    simp only [parseAs, parseGate, isValid, Bool.not_eq_true', htag, apply_ite (Except.map _)]
    rfl

theorem parseAs_not_vendor (hlen : 3 ≤ p.length) (hv : ¬ vendor p) : parseAs cfg t p = .error .wrongHeader := by
  have hinvalid : isValid p = false := Bool.eq_false_iff.2 fun h => hv ((isValid_iff p).1 h).2
  rw [parseAs_of_length hlen, if_pos hinvalid]

theorem parseAs_wrongTag (hlen : 3 ≤ p.length) (hv : vendor p) (htag : byteNat p 2 ≠ (tagCode t).toNat) :
    parseAs cfg t p = .error .wrongTag := by
  have hvalid : isValid p = true := (isValid_iff p).2 ⟨hlen, hv⟩
  rw [parseAs_of_length hlen, if_neg (Bool.not_eq_false _ ▸ hvalid), if_pos htag]

/-- The last test, on the tag's own minimum length (D7). -/
theorem parseAs_of_tag (hlen : 3 ≤ p.length) (hv : vendor p) (htag : byteNat p 2 = (tagCode t).toNat) :
    parseAs cfg t p =
      if p.length < (cfg.parseMinLen t).val then .error .shortForType else .ok (propFields cfg p t) := by
  have hvalid : isValid p = true := (isValid_iff p).2 ⟨hlen, hv⟩
  rw [parseAs_of_length hlen, if_neg (Bool.not_eq_false _ ▸ hvalid), if_neg (not_not.2 htag)]

/-- What a parser has tested when it accepts a payload. -/
theorem parseAs_ok {m : PropMessage} (h : parseAs cfg t p = .ok m) :
    3 ≤ p.length ∧ vendor p ∧ byteNat p 2 = (tagCode t).toNat := by
  have hlen : 3 ≤ p.length := by
    by_contra hshort
    rw [parseAs_short (Nat.not_le.1 hshort)] at h
    cases h
  have hv : vendor p := by
    by_contra hother
    rw [parseAs_not_vendor hlen hother] at h
    cases h
  refine ⟨hlen, hv, ?_⟩
  by_contra htag
  rw [parseAs_wrongTag hlen hv htag] at h
  cases h

/-! ## The dispatcher -/

theorem parseProprietary_short : ∀ {p : Bytes}, p.length < 3 → parseProprietary cfg p = .error .shortPayload
  | [], _ | [_], _ | [_, _], _ => rfl
  | _ :: _ :: _ :: _, h => absurd h (by simp)

theorem parseProprietary_not_vendor : ∀ {p : Bytes}, 3 ≤ p.length → ¬ vendor p →
    parseProprietary cfg p = .error .wrongHeader
  | b0 :: b1 :: _ :: _, _, hv =>
    parseProprietary_wrongHeader (Bool.eq_false_iff.2 (mt (headerMatches_iff_vendor b0 b1 _).1 hv))

theorem parseProprietary_no_layout : ∀ {p : Bytes}, 3 ≤ p.length → vendor p → byteNat p 2 ∉ [1, 2, 3, 4, 7] →
    parseProprietary cfg p = .error (.unknownTag (p.getD 2 0))
  | b0 :: b1 :: _ :: _, _, hv, htag =>
    parseProprietary_unknownTag ((headerMatches_iff_vendor b0 b1 _).2 hv) (tagOfCode_eq_none htag)

/-- The dispatcher is the parser of the payload's tag (R106). -/
theorem parseProprietary_eq_parseAs (hlen : 3 ≤ p.length) (hv : vendor p) (htag : byteNat p 2 = (tagCode t).toNat) :
    parseProprietary cfg p = parseAs cfg t p := by
  have hvalid : isValid p = true := (isValid_iff p).2 ⟨hlen, hv⟩
  have hcode : p.getD 2 0 = tagCode t := BitVec.eq_of_toNat_eq htag
  simp only [parseProprietary, hvalid, Bool.not_true, Bool.false_eq_true, if_false, getPropId_of_length hlen, hcode,
    tagOfCode_tagCode]

end Parse

/-! ## The five parsers as instructions -/

/-- The parser of a message type. -/
def parserOf (p : Bytes) : PropTag → Instr
  | .simpleAction => .parseSimpleAction p
  | .stateInfo => .parseStateInfo p
  | .customHsb => .parseCustomHsb p
  | .startPattern => .parseStartPattern p
  | .outputChannelPwm => .parseOutputChannelPwm p

section Exec

variable {t : PropTag} {p : Bytes} {s : State}

theorem exec_parserOf (t : PropTag) (p : Bytes) (s : State) :
    exec (parserOf p t) s = answerIf (payloadOk p) s (respond .parsed (parseAs Config.current t p)) := by
  cases t <;> rfl

theorem exec_parseProprietary (p : Bytes) (s : State) :
    exec (.parseProprietary p) s =
      answerIf (payloadOk p) s (respond .parsed (parseProprietary Config.current p)) :=
  rfl

theorem exec_parserOf_error (hok : payloadOk p = true) {f : Failure} (h : parseAs Config.current t p = .error f) :
    exec (parserOf p t) s = fails s f := by
  rw [exec_parserOf, h]
  exact answerIf_of hok

theorem exec_parserOf_ok (hok : payloadOk p = true) {m : PropMessage} (h : parseAs Config.current t p = .ok m) :
    exec (parserOf p t) s = answers s (.parsed m) := by
  rw [exec_parserOf, h]
  exact answerIf_of hok

theorem exec_parseProprietary_error (hok : payloadOk p = true) {f : Failure}
    (h : parseProprietary Config.current p = .error f) : exec (.parseProprietary p) s = fails s f := by
  rw [exec_parseProprietary, h]
  exact answerIf_of hok

/-- A parser's answer is a message only when it accepts the payload. -/
theorem parseAs_of_exec_parserOf {m : PropMessage} (h : exec (parserOf p t) s = answers s (.parsed m)) :
    parseAs Config.current t p = .ok m := by
  rw [exec_parserOf] at h
  have hresponse := congrArg State.response (answerIf_next h).2
  cases hparse : parseAs Config.current t p with
  | error f => rw [hparse] at hresponse; cases hresponse
  | ok n => rw [hparse] at hresponse; cases hresponse; rfl

theorem exec_parseProprietary_eq_parserOf (hlen : 3 ≤ p.length) (hv : vendor p)
    (htag : byteNat p 2 = (tagCode t).toNat) : exec (.parseProprietary p) s = exec (parserOf p t) s := by
  rw [exec_parseProprietary, exec_parserOf, parseProprietary_eq_parseAs hlen hv htag]

end Exec

/-- Settles O25: the gate's failures and UnknownTag from the dispatcher's regions, each tag with a layout by
`exec_parseProprietary_eq_parserOf`. -/
theorem parseProprietaryDispatchesOnTag : Obligations.ParseProprietaryDispatchesOnTag := by
  unfold Obligations.ParseProprietaryDispatchesOnTag
  intro p s hmax
  have hok : payloadOk p = true := decide_eq_true hmax
  refine ⟨fun hlen => exec_parseProprietary_error hok (parseProprietary_short hlen),
    fun hlen hv => exec_parseProprietary_error hok (parseProprietary_not_vendor hlen hv), fun hlen hv => ?_⟩
  have hdispatch (t : PropTag) :
      byteNat p 2 = (tagCode t).toNat → exec (.parseProprietary p) s = exec (parserOf p t) s :=
    exec_parseProprietary_eq_parserOf hlen hv
  exact ⟨hdispatch .simpleAction, hdispatch .stateInfo, hdispatch .customHsb, hdispatch .startPattern,
    hdispatch .outputChannelPwm,
    fun htag => exec_parseProprietary_error hok (parseProprietary_no_layout hlen hv htag)⟩

/-! ## The layouts -/

/-- The message whose fields stand at the indices of R54. -/
def layoutMessage (p : Bytes) : PropTag → PropMessage
  | .simpleAction => .simpleAction (p.getD 3 0) (p.getD 4 0)
  | .stateInfo => .stateInfo (p.getD 3 0) (p.getD 4 0) (p.getD 5 0)
  | .customHsb => .customHsb (p.getD 3 0) (p.getD 4 0) (p.getD 5 0) (p.getD 6 0) (p.getD 7 0)
  | .startPattern => .startPattern (p.getD 3 0) (p.getD 4 0)
  | .outputChannelPwm =>
    .outputChannelPwm (p.getD 3 0) (p.getD 4 0) (BitVec.ofNat 16 (byteNat p 5 + 256 * byteNat p 6))

theorem byteAt_of_lt (cfg : Config) {p : Bytes} {i : Nat} (h : i < p.length) : byteAt cfg p i = p.getD i 0 := by
  rw [byteAt, List.getD_eq_getElem?_getD, List.getElem?_eq_getElem h]
  rfl

/-- Two bytes put together are the little-endian number of the two (R31). -/
theorem append_byte_eq_ofNat (hi lo : Byte) : hi ++ lo = BitVec.ofNat 16 (lo.toNat + 256 * hi.toNat) := by
  rw [← toNat_append_byte, BitVec.ofNat_toNat, BitVec.setWidth_eq]

/-- From the decided minimum length on, no field is read beyond the payload (D7). -/
theorem propFields_eq_layoutMessage (cfg : Config) {t : PropTag} {p : Bytes} (h : (decidedMinLen t).val ≤ p.length) :
    propFields cfg p t = layoutMessage p t := by
  have hbyte (i : Nat) (hi : i < (decidedMinLen t).val) : byteAt cfg p i = p.getD i 0 :=
    byteAt_of_lt cfg (hi.trans_le h)
  cases t with
  | simpleAction | startPattern =>
    rw [propFields, hbyte 3 (by decide), hbyte 4 (by decide)]
    rfl
  | stateInfo =>
    rw [propFields, hbyte 3 (by decide), hbyte 4 (by decide), hbyte 5 (by decide)]
    rfl
  | customHsb =>
    rw [propFields, hbyte 3 (by decide), hbyte 4 (by decide), hbyte 5 (by decide), hbyte 6 (by decide),
      hbyte 7 (by decide)]
    rfl
  | outputChannelPwm =>
    rw [propFields, hbyte 3 (by decide), hbyte 4 (by decide), hbyte 5 (by decide), hbyte 6 (by decide),
      append_byte_eq_ofNat]
    rfl

theorem parserOf_answers (t : PropTag) {p : Bytes} (hok : payloadOk p = true) (s : State) :
    ParserAnswers (parserOf p t) p s (tagCode t).toNat (decidedMinLen t).val (layoutMessage p t) := by
  refine ⟨fun hlen => ?shortPayload, fun hlen hv => ?wrongHeader, fun hlen hv htag => ?wrongTag,
    fun hlen hv htag hmin => ?shortForType, fun hlen hv htag hmin => ?fields⟩
  case shortPayload => exact exec_parserOf_error hok (parseAs_short hlen)
  case wrongHeader => exact exec_parserOf_error hok (parseAs_not_vendor hlen hv)
  case wrongTag => exact exec_parserOf_error hok (parseAs_wrongTag hlen hv htag)
  case shortForType => exact exec_parserOf_error hok ((parseAs_of_tag hlen hv htag).trans (if_pos hmin))
  case fields =>
    rw [← propFields_eq_layoutMessage Config.current hmin]
    exact exec_parserOf_ok hok ((parseAs_of_tag hlen hv htag).trans (if_neg (Nat.not_lt.2 hmin)))

/-- Settles O23: `parserOf_answers` for each message type; under another PARSE_MIN_LEN by the one test of
`parseAs_of_tag`. -/
theorem parsersReadTheLayouts : Obligations.ParsersReadTheLayouts := by
  unfold Obligations.ParsersReadTheLayouts
  constructor
  · intro p s hmax
    have hanswers (t : PropTag) := parserOf_answers t (decide_eq_true hmax) s
    exact ⟨hanswers .simpleAction, hanswers .stateInfo, hanswers .customHsb, hanswers .startPattern,
      hanswers .outputChannelPwm⟩
  · intro cfg t p hlen hv htag
    rw [parseAs_of_tag hlen hv htag]
    exact ⟨fun hshort => if_pos hshort, fun hmin => ⟨_, if_neg (Nat.not_lt.2 hmin)⟩⟩

/-! ## Build, then parse (R107 (1) and (2)) -/

/-- A payload laid out as its builder lays it out is read back by its parser, and by the dispatcher. -/
theorem exec_parsers_built {t : PropTag} {fields : Bytes} {m : PropMessage} (hlen : fields.length + 3 = builtLength t)
    (hm : propFields Config.current (0xE8 :: 0x85 :: tagCode t :: fields) t = m) (s : State) :
    exec (parserOf (0xE8 :: 0x85 :: tagCode t :: fields) t) s = answers s (.parsed m) ∧
    exec (.parseProprietary (0xE8 :: 0x85 :: tagCode t :: fields)) s = answers s (.parsed m) := by
  have hmax : builtLength t ≤ payloadMax := by cases t <;> decide
  have hmin : (decidedMinLen t).val ≤ builtLength t := by cases t <;> decide
  have hok : payloadOk (0xE8 :: 0x85 :: tagCode t :: fields) = true := decide_eq_true (hlen.trans_le hmax)
  have hthree : 3 ≤ (0xE8 :: 0x85 :: tagCode t :: fields).length := Nat.le_add_left 3 fields.length
  have hv : vendor (0xE8 :: 0x85 :: tagCode t :: fields) := (headerMatches_iff_vendor _ _ _).1 (by decide)
  have hparse : parseAs Config.current t (0xE8 :: 0x85 :: tagCode t :: fields) = .ok m := by
    rw [parseAs_of_tag hthree hv rfl, hm]
    exact if_neg (Nat.not_lt.2 (hmin.trans_eq hlen.symm))
  have hexec := exec_parserOf_ok (s := s) hok hparse
  exact ⟨hexec, (exec_parseProprietary_eq_parserOf hthree hv rfl).trans hexec⟩

/-- A u16 is its high byte over its low byte. -/
theorem ofNat_div_append_ofNat_mod (v : BitVec 16) :
    BitVec.ofNat 8 (v.toNat / 256) ++ BitVec.ofNat 8 (v.toNat % 256) = v := by
  apply BitVec.eq_of_toNat_eq
  rw [toNat_append_byte, BitVec.toNat_ofNat, BitVec.toNat_ofNat]
  omega

/-- Settles O24: the frames by O22, and each parser on its builder's frame by `exec_parsers_built`. -/
theorem parseInvertsBuild : Obligations.ParseInvertsBuild := by
  unfold Obligations.ParseInvertsBuild
  intro dest src s
  obtain ⟨id, _, hsimpleAction, hstateInfo, hcustomHsb, hstartPattern, hpwm⟩ := buildersAnswerTheLayouts dest src s
  refine ⟨fun a w => ⟨_, hsimpleAction a w, ?simpleAction⟩, fun w st ty => ⟨_, hstateInfo w st ty, ?stateInfo⟩,
    fun a w h sa b => ⟨_, hcustomHsb a w h sa b, ?customHsb⟩, fun w pt => ⟨_, hstartPattern w pt, ?startPattern⟩,
    fun c d t => ⟨_, hpwm c d t, ?pwm⟩⟩
  case simpleAction => exact exec_parsers_built (t := .simpleAction) rfl rfl s
  case stateInfo => exact exec_parsers_built (t := .stateInfo) rfl rfl s
  case customHsb => exact exec_parsers_built (t := .customHsb) rfl rfl s
  case startPattern => exact exec_parsers_built (t := .startPattern) rfl rfl s
  case pwm =>
    have hfields := congrArg (PropMessage.outputChannelPwm c d) (ofNat_div_append_ofNat_mod t)
    exact exec_parsers_built (t := .outputChannelPwm)
      (fields := [c, d, BitVec.ofNat 8 (t.toNat % 256), BitVec.ofNat 8 (t.toNat / 256), 0]) rfl hfields s

/-! ## At most one parser accepts (R107 (3)) -/

theorem exists_eq_parserOf {p : Bytes} {i : Instr}
    (h : i ∈ [.parseSimpleAction p, .parseStateInfo p, .parseCustomHsb p, .parseStartPattern p,
      .parseOutputChannelPwm p]) : ∃ t, i = parserOf p t := by
  simp only [List.mem_cons, List.not_mem_nil, or_false] at h
  obtain h | h | h | h | h := h
  · exact ⟨.simpleAction, h⟩
  · exact ⟨.stateInfo, h⟩
  · exact ⟨.customHsb, h⟩
  · exact ⟨.startPattern, h⟩
  · exact ⟨.outputChannelPwm, h⟩

/-- Settles O26: two parsers that accept a payload have both tested its tag, so they are the same one. -/
theorem atMostOneParserAccepts : Obligations.AtMostOneParserAccepts := by
  unfold Obligations.AtMostOneParserAccepts
  intro p s i j m n parsers hi hj hexeci hexecj
  obtain ⟨t, rfl⟩ := exists_eq_parserOf hi
  obtain ⟨u, rfl⟩ := exists_eq_parserOf hj
  have hparse := parseAs_of_exec_parserOf hexeci
  have hparse' := parseAs_of_exec_parserOf hexecj
  obtain ⟨hlen, hv, htag⟩ := parseAs_ok hparse
  obtain ⟨_, _, htag'⟩ := parseAs_ok hparse'
  obtain rfl := tagCode_injective (htag.symm.trans htag')
  exact ⟨rfl, Except.ok.inj (hparse.symm.trans hparse'),
    (exec_parseProprietary_eq_parserOf hlen hv htag).trans hexeci⟩

end Sys2Proof.Proofs

/-! # Extraction (44_signal_decode.md R120 to R126)

The bits of a raw field by each of the two paths, the sign extension as a word of the field's width, and the sentinels. -/

namespace Sys2Proof.Proofs
open Sys2Proof Sys2Proof.Machine Sys2Proof.Codec Sys2Proof.Spec

/-! ## Payload bits (20_memory.md R32) -/

@[simp] theorem pbit_nil (k : Nat) : pbit [] k = false := by
  simp [pbit]

theorem pbit_cons (b : Byte) (bs : Bytes) (k : Nat) :
    pbit (b :: bs) k = if k < 8 then b.getLsbD k else pbit bs (k - 8) := by
  unfold pbit
  split
  next hk => rw [Nat.div_eq_of_lt hk, Nat.mod_eq_of_lt hk, List.getD_cons_zero]
  next hk =>
    have hdiv : k / 8 = (k - 8) / 8 + 1 := by omega
    have hmod : k % 8 = (k - 8) % 8 := by omega
    rw [hdiv, hmod, List.getD_cons_succ]

theorem pbit_of_length_le {p : Bytes} {k : Nat} (h : 8 * p.length ≤ k) : pbit p k = false := by
  unfold pbit
  rw [List.getD_eq_default _ _ (by omega)]
  exact BitVec.getLsbD_zero

/-- Bits counted from byte `a` on are bits of the whole payload. -/
theorem pbit_drop (p : Bytes) (a k : Nat) : pbit (p.drop a) k = pbit p (8 * a + k) := by
  have hdiv : (8 * a + k) / 8 = a + k / 8 := by omega
  have hmod : (8 * a + k) % 8 = k % 8 := by omega
  simp only [pbit, hdiv, hmod, List.getD_eq_getElem?_getD, List.getElem?_drop]

theorem pbit_take (p : Bytes) (n k : Nat) : pbit (p.take n) k = (decide (k < 8 * n) && pbit p k) := by
  by_cases hk : k < 8 * n
  · have hbyte : k / 8 < n := by omega
    simp only [pbit, List.getD_eq_getElem?_getD, List.getElem?_take_of_lt hbyte, hk, decide_true, Bool.true_and]
  · rw [pbit_of_length_le (by rw [List.length_take]; omega), decide_eq_false hk, Bool.false_and]

/-- The bits of a little-endian number are the bits of its bytes (R31, R32). -/
theorem testBit_leNat (bs : Bytes) (k : Nat) : (leNat bs).testBit k = pbit bs k := by
  induction bs generalizing k with
  | nil => rw [leNat, Nat.zero_testBit, pbit_nil]
  | cons b bs ih =>
    have hsum : leNat (b :: bs) = 2 ^ 8 * leNat bs + b.toNat := Nat.add_comm _ _
    rw [hsum, Nat.testBit_two_pow_mul_add _ b.isLt, ih, pbit_cons]
    rfl

theorem payloadBit_eq_pbit (p : Bytes) (k : Nat) : payloadBit p k = pbit p k := by
  unfold payloadBit pbit byteNat
  rw [← BitVec.testBit_toNat, Nat.testBit_eq_decide_div_mod_eq]
  rfl

/-! ## EXTRACT_RAW -/

theorem extractFast_getLsbD (p : Bytes) (a n : Nat) {i : Nat} (hi : i < 64) :
    (extractFast p (8 * a) (8 * n)).getLsbD i = (decide (i < 8 * n) && pbit p (8 * a + i)) := by
  rw [extractFast, BitVec.getLsbD_ofNat, testBit_leNat, Nat.mul_div_cancel_left _ (by omega),
    Nat.mul_div_cancel_left _ (by omega), slice, pbit_take, pbit_drop, decide_eq_true hi, Bool.true_and]

/-- The bits one turn of GENERAL's loop takes from its byte. -/
theorem chunk_getLsbD (b : Byte) (sh take j : Nat) (h : sh + take ≤ 8) :
    ((b >>> sh) &&& BitVec.ofNat 8 (2 ^ take - 1)).getLsbD j = (decide (j < take) && b.getLsbD (sh + j)) := by
  rw [BitVec.getLsbD_and, BitVec.getLsbD_ushiftRight, BitVec.getLsbD_ofNat, Nat.testBit_two_pow_sub_one]
  by_cases hj : j < take
  · have hj8 : j < 8 := by omega
    simp [hj, hj8]
  · simp [hj]

/-- GENERAL's loop from a byte on: what was gathered, and the field's further bits in place. -/
theorem generalWalk_getLsbD (n : Nat) (bs : Bytes) (sh got : Nat) (acc : BitVec 64) (hsh : sh < 8) {i : Nat}
    (hi : i < 64) :
    (generalWalk n bs sh got acc).getLsbD i =
      (acc.getLsbD i || (decide (got ≤ i) && decide (i < n) && pbit bs (sh + (i - got)))) := by
  induction bs generalizing sh got acc with
  | nil => rw [generalWalk, pbit_nil, Bool.and_false, Bool.or_false]
  | cons b bs ih =>
    rw [generalWalk]
    split
    next hgot =>
      generalize htake : min (8 - sh) (n - got) = take
      rw [ih 0 (got + take) _ (by omega), BitVec.getLsbD_or, BitVec.getLsbD_shiftLeft, BitVec.getLsbD_setWidth,
        chunk_getLsbD b sh take _ (by omega), pbit_cons, Bool.or_assoc]
      congr 1
      by_cases hbelow : i < got
      · simp [hbelow, show ¬ got ≤ i by omega, show ¬ got + take ≤ i by omega]
      · by_cases htaken : i < got + take
        · simp [hi, hbelow, show i - got < 64 by omega, show i - got < take by omega, show got ≤ i by omega,
            show i < n by omega, show sh + (i - got) < 8 by omega, show ¬ got + take ≤ i by omega]
        · by_cases hn : i < n
          · have hrest : sh + (i - got) - 8 = i - (got + take) := by omega
            simp [hi, hbelow, hn, hrest, show ¬ i - got < take by omega, show got ≤ i by omega,
              show ¬ sh + (i - got) < 8 by omega, show got + take ≤ i by omega]
          · simp [hn, show ¬ i - got < take by omega]
    next hgot =>
      have hnone : (decide (got ≤ i) && decide (i < n)) = false := by
        rw [← Bool.decide_and]
        exact decide_eq_false (by omega)
      rw [hnone, Bool.false_and, Bool.or_false]

/-- Both paths give the field's bits as far as the payload has them (R123, D23). -/
theorem extractRaw_getLsbD (p : Bytes) (s n : Nat) {i : Nat} (hi : i < 64) :
    (extractRaw p s n).getLsbD i = (decide (i < n) && pbit p (s + i)) := by
  unfold extractRaw
  split
  next haligned =>
    obtain ⟨a, rfl⟩ := Nat.dvd_of_mod_eq_zero haligned.1
    obtain ⟨m, rfl⟩ := Nat.dvd_of_mod_eq_zero haligned.2
    exact extractFast_getLsbD p a m hi
  next =>
    have hbit : 8 * (s / 8) + (s % 8 + i) = s + i := by omega
    rw [extractGeneral, generalWalk_getLsbD n _ _ _ _ (Nat.mod_lt s (by decide)) hi, pbit_drop, Nat.sub_zero, hbit]
    simp

/-- The raw value of a field is below 2^n. -/
theorem toNat_extractRaw_lt (p : Bytes) (s n : Nat) : (extractRaw p s n).toNat < 2 ^ n := by
  apply Nat.lt_pow_two_of_testBit
  intro i hi
  rw [BitVec.testBit_toNat]
  by_cases h64 : i < 64
  · rw [extractRaw_getLsbD p s n h64, decide_eq_false (by omega), Bool.false_and]
  · exact BitVec.getLsbD_of_ge _ _ (by omega)

/-! ## SIGN_EXTEND -/

theorem signExtend_unsigned (raw : BitVec 64) (n : Nat) : signExtend raw n false = raw :=
  rfl

theorem toNat_onesBelow {n : Nat} (h : n < 64) : ((1#64 <<< n) - 1#64).toNat = 2 ^ n - 1 := by
  have hpow : 2 ^ n < 2 ^ 64 := Nat.pow_lt_pow_right (by decide) h
  have hpos : 0 < 2 ^ n := Nat.two_pow_pos n
  rw [BitVec.toNat_sub, BitVec.toNat_shiftLeft, BitVec.toNat_ofNat, Nat.shiftLeft_eq]
  omega

theorem signExtend_getLsbD (raw : BitVec 64) (n : Nat) (signed : Bool) {i : Nat} (hi : i < 64) :
    (signExtend raw n signed).getLsbD i =
      (raw.getLsbD i || (signed && decide (n < 64) && decide (n ≤ i) && raw.getLsbD (n - 1))) := by
  unfold signExtend
  split
  next hnarrow =>
    rw [hnarrow, Bool.true_and]
    split
    next htop =>
      have hn : n < 64 := of_decide_eq_true (Bool.and_eq_true_iff.1 hnarrow).2
      rw [htop, BitVec.getLsbD_or, BitVec.getLsbD_not, ← BitVec.testBit_toNat (_ - _), toNat_onesBelow hn,
        Nat.testBit_two_pow_sub_one]
      simp [hi, ← decide_not]
    next htop => rw [eq_false_of_ne_true htop, Bool.and_false, Bool.or_false]
  next hnarrow => rw [eq_false_of_ne_true hnarrow, Bool.false_and, Bool.false_and, Bool.or_false]

/-- A signed field is its own n-bit word sign-extended to 64 bits. -/
theorem signExtend_signed {raw : BitVec 64} {n : Nat} (hraw : raw.toNat < 2 ^ n) (h1 : 1 ≤ n) (h64 : n ≤ 64) :
    signExtend raw n true = (raw.setWidth n).signExtend 64 := by
  apply BitVec.eq_of_getLsbD_eq
  intro i hi
  rw [signExtend_getLsbD raw n true hi, BitVec.getLsbD_signExtend, BitVec.getLsbD_setWidth, BitVec.msb_setWidth]
  by_cases hin : i < n
  · simp [hi, hin, show ¬ n ≤ i by omega]
  · have hzero : raw.getLsbD i = false := by
      rw [← BitVec.testBit_toNat]
      exact Nat.testBit_lt_two_pow (hraw.trans_le (Nat.pow_le_pow_right (by decide) (by omega)))
    rw [hzero]
    simp [hi, hin, show n < 64 by omega, show n ≤ i by omega, show 0 < n by omega]

theorem toInt_signExtend_signed {raw : BitVec 64} {n : Nat} (hraw : raw.toNat < 2 ^ n) (h1 : 1 ≤ n) (h64 : n ≤ 64) :
    (signExtend raw n true).toInt = (raw.setWidth n).toInt := by
  rw [signExtend_signed hraw h1 h64, BitVec.toInt_signExtend_of_le h64]

/-! ## The three operations as instructions -/

theorem payloadOk_of_length {p : Bytes} (h : p.length ≤ 223) : payloadOk p = true :=
  decide_eq_true h

theorem bitLengthOk_iff {n : Nat} : bitLengthOk n = true ↔ 1 ≤ n ∧ n ≤ 64 := by
  simp only [bitLengthOk, Bool.and_eq_true, decide_eq_true_eq]

theorem bitLength_of_signalDefOk {sd : SignalDef} (h : signalDefOk sd = true) :
    1 ≤ sd.bitLength ∧ sd.bitLength ≤ 64 :=
  bitLengthOk_iff.1 (Bool.and_eq_true_iff.1 h).1

section Exec

variable {p : Bytes} {sd : SignalDef} {n : Nat}

theorem exec_extractRaw (start : BitVec 32) (s : State) (hp : p.length ≤ 223) (hn : 1 ≤ n ∧ n ≤ 64) :
    exec (.extractRaw p start n) s = answers s (.raw (extractRaw p start.toNat n)) :=
  answerIf_of (Bool.and_eq_true_iff.2 ⟨payloadOk_of_length hp, bitLengthOk_iff.2 hn⟩)

theorem exec_signExtend (raw : BitVec 64) (signed : Bool) (s : State) (hn : 1 ≤ n ∧ n ≤ 64) :
    exec (.signExtend raw n signed) s = answers s (.raw (signExtend raw n signed)) :=
  answerIf_of (bitLengthOk_iff.2 hn)

theorem exec_extract (s : State) (hp : p.length ≤ 223) (hsd : signalDefOk sd = true) :
    exec (.extract p sd) s = answers s (.raw (extract p sd)) :=
  answerIf_of (Bool.and_eq_true_iff.2 ⟨payloadOk_of_length hp, hsd⟩)

theorem exec_checkAvailable (raw : BitVec 64) (signed : Bool) (s : State) (hn : 1 ≤ n ∧ n ≤ 64) :
    exec (.checkAvailable raw n signed) s = answers s (.available (available raw n signed)) :=
  answerIf_of (bitLengthOk_iff.2 hn)

end Exec

/-- Settles O30: the bits of the two paths, and that the payload's bits end with it. -/
theorem extractRawClosedForm : Obligations.ExtractRawClosedForm := by
  unfold Obligations.ExtractRawClosedForm
  intro p start n s hp h1 h64
  refine ⟨_, exec_extractRaw start s hp ⟨h1, h64⟩, fun i hi => ?_⟩
  rw [extractRaw_getLsbD p _ n hi, payloadBit_eq_pbit]
  by_cases hin : start.toNat + i < 8 * p.length
  · rw [decide_eq_true hin, Bool.and_true]
  · rw [pbit_of_length_le (Nat.le_of_not_lt hin), Bool.and_false, Bool.and_false]

/-- Settles O31: bit by bit, and by `signExtend_signed` the two's-complement value of the n-bit word. -/
theorem signExtendBits : Obligations.SignExtendBits := by
  unfold Obligations.SignExtendBits
  intro raw n signed s h1 h64
  refine ⟨_, exec_signExtend raw signed s ⟨h1, h64⟩, fun i hi => signExtend_getLsbD raw n signed hi, ?_⟩
  rintro hraw rfl
  rw [toInt_signExtend_signed hraw h1 h64, BitVec.toInt_eq_msb_cond, BitVec.msb_setWidth, BitVec.toNat_setWidth,
    Nat.mod_eq_of_lt hraw, decide_eq_true (show 0 < n from h1), Bool.true_and, Nat.cast_pow, Nat.cast_ofNat]

/-- Settles O32: EXTRACT is defined as the composition. -/
theorem extractComposes : Obligations.ExtractComposes := by
  unfold Obligations.ExtractComposes
  intro p sd s hp hsd
  have hn := bitLength_of_signalDefOk hsd
  exact ⟨_, _, exec_extractRaw sd.startBit s hp hn, exec_signExtend _ sd.isSigned s hn, exec_extract s hp hsd⟩

/-! ## EXTRACT's value -/

theorem extract_unsigned (p : Bytes) {sd : SignalDef} (h : sd.isSigned = false) :
    extract p sd = extractRaw p sd.startBit.toNat sd.bitLength := by
  rw [extract, h, signExtend_unsigned]

/-- A signed field's value is that of an n-bit two's-complement word. -/
theorem toInt_extract_signed (p : Bytes) {sd : SignalDef} (hsd : signalDefOk sd = true) (h : sd.isSigned = true) :
    (extract p sd).toInt = ((extractRaw p sd.startBit.toNat sd.bitLength).setWidth sd.bitLength).toInt := by
  obtain ⟨h1, h64⟩ := bitLength_of_signalDefOk hsd
  rw [extract, h, toInt_signExtend_signed (toNat_extractRaw_lt p _ _) h1 h64]

theorem extract_signed_range (p : Bytes) {sd : SignalDef} (hsd : signalDefOk sd = true) (h : sd.isSigned = true) :
    -(2 ^ (sd.bitLength - 1) : Int) ≤ (extract p sd).toInt ∧ (extract p sd).toInt < 2 ^ (sd.bitLength - 1) := by
  rw [toInt_extract_signed p hsd h]
  exact ⟨BitVec.le_toInt _, BitVec.toInt_lt⟩

/-- Settles O33: a signed field is an n-bit word's integer, an unsigned one the raw value. -/
theorem extractIsInRange : Obligations.ExtractIsInRange := by
  unfold Obligations.ExtractIsInRange
  intro p sd s hp hsd
  refine ⟨_, exec_extract s hp hsd, extract_signed_range p hsd, fun h => ?_⟩
  rw [extract_unsigned p h]
  exact toNat_extractRaw_lt p _ _

/-- Settles O34: equal field bits give equal raw values, by the closed form. -/
theorem extractDependsOnFieldBitsOnly : Obligations.ExtractDependsOnFieldBitsOnly := by
  unfold Obligations.ExtractDependsOnFieldBitsOnly
  intro p q sd s hp hq hsd _ _ hbits
  have hraw : extractRaw p sd.startBit.toNat sd.bitLength = extractRaw q sd.startBit.toNat sd.bitLength := by
    apply BitVec.eq_of_getLsbD_eq
    intro i hi
    rw [extractRaw_getLsbD p _ _ hi, extractRaw_getLsbD q _ _ hi]
    by_cases hin : i < sd.bitLength
    · rw [← payloadBit_eq_pbit, ← payloadBit_eq_pbit, hbits i hin]
    · rw [decide_eq_false hin, Bool.false_and, Bool.false_and]
  have hext : extract p sd = extract q sd := by rw [extract, extract, hraw]
  rw [exec_extract s hp hsd, exec_extract s hq hsd, hext]
  exact ⟨rfl, _, rfl⟩

/-! ## CHECK_AVAILABLE -/

/-- The field has a sentinel width and the number reaches its threshold (00_scope.md R5). -/
def reachesSentinel (n v : Nat) : Prop :=
  (n = 8 ∧ 250 ≤ v) ∨ (n = 16 ∧ 65530 ≤ v) ∨ (n = 32 ∧ 4294967290 ≤ v)

theorem reachesSentinel_iff {n v : Nat} : reachesSentinel n v ↔ ∃ t, naThreshold n = some t ∧ t ≤ (v : Int) := by
  unfold reachesSentinel naThreshold
  split_ifs <;> simp_all

theorem naThreshold_pos {n : Nat} {t : Int} (h : naThreshold n = some t) : 0 < t := by
  unfold naThreshold at h
  split_ifs at h <;> cases h <;> decide

theorem available_eq_false_iff {raw : BitVec 64} {n : Nat} {signed : Bool} :
    available raw n signed = false ↔ ∃ t, naThreshold n = some t ∧ t ≤ sval raw signed := by
  unfold available
  cases naThreshold n <;> simp

@[simp] theorem sval_unsigned (raw : BitVec 64) : sval raw false = raw.toNat := rfl

@[simp] theorem sval_signed (raw : BitVec 64) : sval raw true = raw.toInt := rfl

theorem not_available_unsigned {raw : BitVec 64} {n : Nat} :
    available raw n false = false ↔ reachesSentinel n raw.toNat := by
  rw [available_eq_false_iff, reachesSentinel_iff, sval_unsigned]

/-- Settles O35: a signed reading of a pattern with the top bit set is negative, below every threshold; any other
reading is the pattern as a natural. -/
theorem availabilityThresholds : Obligations.AvailabilityThresholds := by
  unfold Obligations.AvailabilityThresholds
  intro raw n signed s h1 h64
  refine ⟨_, exec_checkAvailable raw signed s ⟨h1, h64⟩, ?_⟩
  change _ ↔ reachesSentinel n raw.toNat ∧ _
  cases signed with
  | false => simp [not_available_unsigned]
  | true =>
    rw [available_eq_false_iff, sval_signed]
    by_cases hneg : raw.toNat < 2 ^ 63
    · have hint : raw.toInt = raw.toNat := BitVec.toInt_eq_toNat_of_lt (by omega)
      simp only [hint, ← reachesSentinel_iff, hneg, or_true, and_true]
    · have hint : raw.toInt < 0 := BitVec.toInt_neg_iff.2 (by omega)
      simp only [hneg, Bool.true_eq_false, or_self, and_false, iff_false]
      rintro ⟨t, ht, hle⟩
      have := naThreshold_pos ht
      omega

end Sys2Proof.Proofs

/-! # Signals and messages (44_signal_decode.md R127 to R134)

SCALE by its steps, ENUM_LOOKUP as membership in the table, and the decoding of a signal and of a message. -/

namespace Sys2Proof.Proofs
open Sys2Proof Sys2Proof.Machine Sys2Proof.Codec Sys2Proof.Spec

/-! ## The operations as instructions -/

section Exec

variable {p : Bytes} {sd : SignalDef}

theorem exec_scale (raw : BitVec 64) (s : State) (hsd : signalDefOk sd = true) :
    exec (.scale raw sd) s = answers s (.scaled (scale Config.current raw sd)) :=
  answerIf_of hsd

theorem exec_enumLookup (raw : BitVec 64) (s : State) (hsd : signalDefOk sd = true) :
    exec (.enumLookup raw sd) s = answers s (.enumText (enumLookup raw sd)) :=
  answerIf_of hsd

theorem exec_decodeSignal (s : State) (hp : p.length ≤ 223) (hsd : signalDefOk sd = true) :
    exec (.decodeSignal p sd) s = answer s (respond .signal (decodeSignal Config.current p sd)) :=
  answerIf_of (Bool.and_eq_true_iff.2 ⟨payloadOk_of_length hp, hsd⟩)

theorem exec_decodeSignal_error (s : State) (hp : p.length ≤ 223) (hsd : signalDefOk sd = true) {f : Failure}
    (h : decodeSignal Config.current p sd = .error f) : exec (.decodeSignal p sd) s = fails s f := by
  rw [exec_decodeSignal s hp hsd, h]
  rfl

theorem exec_decodeSignal_ok (s : State) (hp : p.length ≤ 223) (hsd : signalDefOk sd = true) {ds : DecodedSignal}
    (h : decodeSignal Config.current p sd = .ok ds) : exec (.decodeSignal p sd) s = answers s (.signal ds) := by
  rw [exec_decodeSignal s hp hsd, h]
  rfl

end Exec

/-! ## SCALE -/

/-- SCALE before the temperature correction: one multiplication and one addition (R127). -/
def plainScale (cfg : Config) (raw : BitVec 64) (sd : SignalDef) : F64 :=
  cfg.f64.add (cfg.f64.mul (cfg.f64.ofInt (sval raw sd.isSigned)) sd.scale) sd.offset

section Scale

variable {cfg : Config} {raw : BitVec 64} {sd : SignalDef} {threshold : F64} {isCelsius : Text → Bool}

theorem scale_of_no_tempFix (h : cfg.tempFix = none) : scale cfg raw sd = plainScale cfg raw sd := by
  rw [scale, tempCorrect, h]
  rfl

theorem scale_of_tempFix (h : cfg.tempFix = some (threshold, isCelsius)) :
    scale cfg raw sd =
      if isCelsius sd.unit && cfg.f64.lt threshold (plainScale cfg raw sd) then
        cfg.f64.sub (cfg.f64.mul (cfg.f64.ofInt (sval raw sd.isSigned)) Binary64.oneHundredth) Binary64.kelvinOffset
      else plainScale cfg raw sd := by
  rw [scale, tempCorrect, h]
  rfl

end Scale

/-- Settles O40: the configuration's two forms of TEMP_FIX, and the test of the second. -/
theorem scaleSteps : Obligations.ScaleSteps := by
  unfold Obligations.ScaleSteps
  intro raw sd s hsd
  refine ⟨exec_scale raw s hsd, fun cfg => ⟨scale_of_no_tempFix, fun threshold isCelsius hfix => ⟨?_, ?_⟩⟩⟩
  · intro hunit habove
    exact (scale_of_tempFix hfix).trans (if_pos (Bool.and_eq_true_iff.2 ⟨hunit, habove⟩))
  · intro hnot
    refine (scale_of_tempFix hfix).trans (if_neg ?_)
    rw [Bool.and_eq_true, not_and_or, Bool.not_eq_true, Bool.not_eq_true]
    exact hnot

/-! ## ENUM_LOOKUP -/

/-- In a table with unique keys (D38) the first entry of a key is the only one. -/
theorem find?_key_eq_some_iff {table : List (Int × Text)} (h : keysUnique table = true) (k : Int) (t : Text) :
    (table.find? (fun e => decide (e.1 = k))).map (fun e => e.2) = some t ↔ (k, t) ∈ table := by
  induction table with
  | nil => simp
  | cons e table ih =>
    obtain ⟨hfirst, hrest⟩ := Bool.and_eq_true_iff.1 h
    rw [List.find?_cons, List.mem_cons]
    by_cases hk : e.1 = k
    · have hnotMem : (k, t) ∉ table := fun hmem =>
        of_decide_eq_true (List.all_eq_true.1 hfirst _ hmem) hk.symm
      simp [hk, hnotMem, Prod.ext_iff, eq_comm]
    · have hne : (k, t) ≠ e := fun heq => hk (heq ▸ rfl)
      simp [hk, hne, ih hrest]

/-- Settles O41: ENUM_LOOKUP searches the table, whose keys are unique in a SignalDef that meets its type. -/
theorem enumLookupIsTheTable : Obligations.EnumLookupIsTheTable := by
  unfold Obligations.EnumLookupIsTheTable
  intro raw sd s hsd
  refine ⟨_, exec_enumLookup raw s hsd, fun t => ?_⟩
  have hkeys : enumTableOk sd.enumTable = true := (Bool.and_eq_true_iff.1 hsd).2
  unfold enumLookup
  cases htable : sd.enumTable with
  | none => simp
  | some table =>
    rw [htable] at hkeys
    rw [find?_key_eq_some_iff hkeys]
    simp [sval]

/-! ## DECODE_SIGNAL -/

/-- The signal reported for an available raw value (R130, R131). -/
def availableSignal (cfg : Config) (raw : BitVec 64) (sd : SignalDef) : DecodedSignal :=
  { name := sd.name
    unit := sd.unit
    value := match enumLookup raw sd with
      | some t => .enumerated t
      | none => .numeric (scale cfg raw sd)
    valid := rangeOk cfg (scale cfg raw sd) sd }

theorem availableSignal_value_ne (cfg : Config) (raw : BitVec 64) (sd : SignalDef) :
    (availableSignal cfg raw sd).value ≠ .notAvailable := by
  unfold availableSignal
  cases enumLookup raw sd <;> exact SignalValue.noConfusion

section DecodeSignal

variable {cfg : Config} {p : Bytes} {sd : SignalDef}

theorem decodeSignal_of_beyond (h : 8 * p.length < sd.startBit.toNat + sd.bitLength) :
    decodeSignal cfg p sd = .error .bitRangeExceedsPayload :=
  if_pos h

theorem decodeSignal_of_fits (h : sd.startBit.toNat + sd.bitLength ≤ 8 * p.length) :
    decodeSignal cfg p sd =
      .ok (if available (extract p sd) sd.bitLength sd.isSigned then availableSignal cfg (extract p sd) sd
        else unavailable sd) := by
  rw [decodeSignal, if_neg (Nat.not_lt.2 h)]
  dsimp only
  cases available (extract p sd) sd.bitLength sd.isSigned <;> rfl

/-- The one failure of DECODE_SIGNAL (R130, R172). -/
theorem decodeSignal_error {f : Failure} (h : decodeSignal cfg p sd = .error f) : f = .bitRangeExceedsPayload := by
  rcases Nat.lt_or_ge (8 * p.length) (sd.startBit.toNat + sd.bitLength) with hb | hf
  · exact Except.error.inj (h.symm.trans (decodeSignal_of_beyond hb))
  · exact Except.noConfusion rfl rfl (heq_of_eq (h.symm.trans (decodeSignal_of_fits hf)))

end DecodeSignal

theorem rangeOk_eq (cfg : Config) (x : F64) (sd : SignalDef) :
    rangeOk cfg x sd = (!cfg.rangeCheck || (cfg.f64.le sd.minVal x && cfg.f64.le x sd.maxVal)) := by
  unfold rangeOk
  cases cfg.rangeCheck <;> rfl

/-- Settles O42: DECODE_SIGNAL on either side of its range test, each step the answer of the operation of its name. -/
theorem decodeSignalComposes : Obligations.DecodeSignalComposes := by
  unfold Obligations.DecodeSignalComposes
  intro p sd s hp hsd
  refine ⟨fun hb => exec_decodeSignal_error s hp hsd (decodeSignal_of_beyond hb), fun hf => ?_⟩
  refine ⟨_, _, _, _, exec_extract s hp hsd, exec_checkAvailable _ sd.isSigned s (bitLength_of_signalDefOk hsd),
    exec_scale _ s hsd, exec_enumLookup _ s hsd, ?_⟩
  rw [exec_decodeSignal_ok s hp hsd (decodeSignal_of_fits hf), ← rangeOk_eq]
  rfl

/-! ## Not available -/

/-- The value of a signed field is below half the numbers of its width, and every sentinel is above (D15). -/
theorem available_of_signed (p : Bytes) {sd : SignalDef} (hsd : signalDefOk sd = true) (h : sd.isSigned = true) :
    available (extract p sd) sd.bitLength true = true := by
  have hbelow := (extract_signed_range p hsd h).2
  rw [← Bool.not_eq_false, available_eq_false_iff]
  rintro ⟨t, ht, hle⟩
  rw [sval_signed] at hle
  unfold naThreshold at ht
  split_ifs at ht with h8 h16 h32 <;> cases ht
  · rw [h8] at hbelow; omega
  · rw [h16] at hbelow; omega
  · rw [h32] at hbelow; omega

/-- An extracted value is not available exactly when the field is unsigned and its bits reach the sentinel. -/
theorem not_available_extract_iff (p : Bytes) {sd : SignalDef} (hsd : signalDefOk sd = true) :
    available (extract p sd) sd.bitLength sd.isSigned = false ↔
      sd.isSigned = false ∧
        reachesSentinel sd.bitLength (extractRaw p sd.startBit.toNat sd.bitLength).toNat := by
  cases h : sd.isSigned with
  | false => simp only [not_available_unsigned, extract_unsigned p h, true_and]
  | true => simp only [available_of_signed p hsd h, Bool.true_eq_false, false_and]

/-- Settles O43: the value is `notAvailable` exactly where CHECK_AVAILABLE says so. -/
theorem notAvailableExactlyOnSentinels : Obligations.NotAvailableExactlyOnSentinels := by
  unfold Obligations.NotAvailableExactlyOnSentinels
  intro p sd s hp hsd hf
  refine ⟨_, _, exec_extractRaw sd.startBit s hp (bitLength_of_signalDefOk hsd),
    exec_decodeSignal_ok s hp hsd (decodeSignal_of_fits hf), ?_⟩
  change (_ ↔ sd.isSigned = false ∧ reachesSentinel sd.bitLength _) ∧ _
  rw [← not_available_extract_iff p hsd]
  cases available (extract p sd) sd.bitLength sd.isSigned with
  | false => exact ⟨iff_of_true rfl rfl, fun _ => rfl⟩
  | true =>
    have hne := availableSignal_value_ne Config.current (extract p sd) sd
    exact ⟨iff_of_false hne (by decide), fun h => absurd h hne⟩

/-! ## DECODE_MESSAGE -/

section DecodeMessage

variable {cfg : Config} {m : Message}

theorem decodeMessage_of_ignored (h : m.pgn ∈ cfg.ignorePgns) :
    decodeMessage cfg m = .fail .noDecoder (some (rejectedMessage [] [])) :=
  if_pos (List.contains_iff_mem.2 h)

theorem not_contains_ignorePgns (h : m.pgn ∉ cfg.ignorePgns) : cfg.ignorePgns.contains m.pgn = false :=
  eq_false_of_ne_true fun hc => h (List.contains_iff_mem.1 hc)

theorem decodeMessage_of_no_decoder (h : cfg.decoder m.pgn = none) :
    decodeMessage cfg m = .fail .noDecoder (some (rejectedMessage [] [])) := by
  by_cases hi : m.pgn ∈ cfg.ignorePgns
  · exact decodeMessage_of_ignored hi
  · simp only [decodeMessage, not_contains_ignorePgns hi, h, Bool.false_eq_true, if_false]

theorem decodeMessage_of_special (hi : m.pgn ∉ cfg.ignorePgns) {f : Bytes → DecodedMessage}
    (h : cfg.decoder m.pgn = some (.special f)) : decodeMessage cfg m = .ok (.message (f m.payload)) := by
  simp only [decodeMessage, not_contains_ignorePgns hi, h, Bool.false_eq_true, if_false]

theorem decodeMessage_of_generic (hi : m.pgn ∉ cfg.ignorePgns) {sch : Schema}
    (h : cfg.decoder m.pgn = some (.generic sch)) :
    decodeMessage cfg m =
      if m.payload.length < sch.minLen then .fail .shortForType (some (rejectedMessage sch.name sch.description))
      else .ok (.message ⟨sch.name, sch.description, sch.signals.map (decodeFolded cfg m.payload), true⟩) := by
  simp only [decodeMessage, not_contains_ignorePgns hi, h, Bool.false_eq_true, if_false]

end DecodeMessage

/-- A signal of a message: as DECODE_SIGNAL decodes it, or not available where it fails (D21). -/
theorem decodeFolded_cases (cfg : Config) (p : Bytes) (sd : SignalDef) :
    decodeSignal cfg p sd = .ok (decodeFolded cfg p sd) ∨
      (decodeSignal cfg p sd = .error .bitRangeExceedsPayload ∧ decodeFolded cfg p sd = unavailable sd) := by
  unfold decodeFolded
  cases h : decodeSignal cfg p sd with
  | ok ds => exact .inl rfl
  | error f =>
    obtain rfl := decodeSignal_error h
    exact .inr ⟨rfl, rfl⟩

theorem exec_decodeMessage {m : Message} (hm : messageOk m = true) (s : State) :
    exec (.decodeMessage m) s = .next (s.withResponse (decodeMessage Config.current m)) :=
  answerIf_of hm

/-- Settles O44: the branches of DECODE_MESSAGE, and each signal of a schema by `decodeFolded_cases`. -/
theorem decodeMessageOutcome : Obligations.DecodeMessageOutcome := by
  unfold Obligations.DecodeMessageOutcome
  refine ⟨fun m s hm => exec_decodeMessage hm s, fun p sd s hp hsd => ?_, fun cfg m => ⟨?_, fun hi => ⟨?_, ?_⟩⟩⟩
  · cases h : decodeSignal Config.current p sd with
    | ok ds => exact exec_decodeSignal_ok s hp hsd h
    | error f => exact exec_decodeSignal_error s hp hsd h
  · exact fun h => h.elim decodeMessage_of_ignored decodeMessage_of_no_decoder
  · exact fun f hdec => decodeMessage_of_special hi hdec
  · intro sch hdec
    rw [decodeMessage_of_generic hi hdec]
    refine ⟨fun hshort => if_pos hshort, fun hlong => ⟨_, if_neg (Nat.not_lt.2 hlong), List.length_map _, ?_⟩⟩
    intro k sd ds hsd hds
    rw [List.getElem?_map, hsd] at hds
    obtain rfl := Option.some.inj hds
    exact decodeFolded_cases cfg m.payload sd

end Sys2Proof.Proofs

/-! # Binary64 patterns and values (44_signal_decode.md R127)

The fields of a pattern, the order of its low 63 bits as the order of the values, and what is no finite number. -/

namespace Sys2Proof.Proofs
open Sys2Proof Sys2Proof.Machine Sys2Proof.Spec

/-! ## The fields -/

theorem expField_eq (x : F64) : Binary64.expField x = exponentOf x := by
  rw [Binary64.expField, BitVec.extractLsb'_toNat, Nat.shiftRight_eq_div_pow]
  rfl

theorem fraction_eq (x : F64) : Binary64.fraction x = fractionOf x := by
  rw [Binary64.fraction, BitVec.extractLsb'_toNat, Nat.shiftRight_zero]
  rfl

theorem magnitude_eq (x : F64) : Binary64.magnitude x = sizeOf64 x := by
  rw [Binary64.magnitude, expField_eq, fraction_eq]
  rfl

theorem msb_iff_negative (x : F64) : x.msb = true ↔ negative x := by
  rw [BitVec.msb_eq_decide, decide_eq_true_eq]
  rfl

theorem units_eq (x : F64) : Binary64.units x = valueOf x := by
  rw [Binary64.units, magnitude_eq, BitVec.msb_eq_decide]
  simp only [decide_eq_true_eq]
  rfl

theorem isNaN_iff (x : F64) : Binary64.isNaN x = true ↔ isNaN x := by
  simp only [Binary64.isNaN, expField_eq, fraction_eq, Bool.and_eq_true, beq_iff_eq, bne_iff_ne]
  rfl

theorem isInf_iff (x : F64) : Binary64.isInf x = true ↔ infinite x := by
  simp only [Binary64.isInf, expField_eq, fraction_eq, Bool.and_eq_true, beq_iff_eq]
  rfl

/-! ## The low 63 bits -/

/-- The exponent and fraction fields as one number, the pattern without its sign. -/
def lowBits (x : F64) : Nat := x.toNat % 2 ^ 63

/-- The low bits of the infinities. -/
def infinityBits : Nat := 2047 * 2 ^ 52

/-- The size, in units of 2^-1074, that the low bits stand for; an infinity's continue the exponent range. -/
def sizeOfBits (b : Nat) : Nat :=
  if b / 2 ^ 52 = 0 then b % 2 ^ 52 else (2 ^ 52 + b % 2 ^ 52) * 2 ^ (b / 2 ^ 52 - 1)

theorem exponentOf_eq (x : F64) : exponentOf x = lowBits x / 2 ^ 52 := by
  unfold exponentOf lowBits
  omega

theorem fractionOf_eq (x : F64) : fractionOf x = lowBits x % 2 ^ 52 := by
  unfold fractionOf lowBits
  omega

theorem sizeOf64_eq (x : F64) : sizeOf64 x = sizeOfBits (lowBits x) := by
  rw [sizeOf64, exponentOf_eq, fractionOf_eq]
  rfl

theorem finite_iff (x : F64) : finite x ↔ lowBits x < infinityBits := by
  rw [finite, exponentOf_eq, infinityBits]
  omega

theorem infinite_iff (x : F64) : infinite x ↔ lowBits x = infinityBits := by
  rw [infinite, exponentOf_eq, fractionOf_eq, infinityBits]
  omega

theorem isNaN_iff_lowBits (x : F64) : isNaN x ↔ infinityBits < lowBits x := by
  have hlt : lowBits x < 2 ^ 63 := Nat.mod_lt _ (by decide)
  rw [isNaN, exponentOf_eq, fractionOf_eq, infinityBits]
  omega

/-- A significand `m` and an exponent `k` add up to a pattern, a carry into the exponent included. -/
theorem sizeOfBits_significand {k m : Nat} (hm : m ≤ 2 ^ 53) (hk : k = 0 ∨ 2 ^ 52 ≤ m) :
    sizeOfBits (k * 2 ^ 52 + m) = m * 2 ^ k := by
  have hfields : (m < 2 ^ 52 ∧ k = 0) ∨ (2 ^ 52 ≤ m ∧ m < 2 ^ 53) ∨ m = 2 ^ 53 := by omega
  unfold sizeOfBits
  obtain ⟨hsub, rfl⟩ | ⟨hlow, hhigh⟩ | rfl := hfields
  · rw [if_pos (by omega), Nat.pow_zero]
    omega
  · have hexp : (k * 2 ^ 52 + m) / 2 ^ 52 = k + 1 := by omega
    have hfrac : 2 ^ 52 + (k * 2 ^ 52 + m) % 2 ^ 52 = m := by omega
    rw [if_neg (by omega), hexp, hfrac, Nat.add_sub_cancel]
  · have hexp : (k * 2 ^ 52 + 2 ^ 53) / 2 ^ 52 = k + 1 + 1 := by omega
    have hfrac : (k * 2 ^ 52 + 2 ^ 53) % 2 ^ 52 = 0 := by omega
    rw [if_neg (by omega), hexp, hfrac, Nat.add_sub_cancel, Nat.pow_succ, Nat.pow_succ 2 52]
    ring

/-- Every low bits are a significand and an exponent, the next pattern being the next significand's. -/
theorem exists_significand (b : Nat) : ∃ k m, b = k * 2 ^ 52 + m ∧ m < 2 ^ 53 ∧ (k = 0 ∨ 2 ^ 52 ≤ m) := by
  by_cases hb : b < 2 ^ 53
  · exact ⟨0, b, by omega, hb, .inl rfl⟩
  · exact ⟨b / 2 ^ 52 - 1, 2 ^ 52 + b % 2 ^ 52, by omega, by omega, .inr (by omega)⟩

/-- Patterns are in the order of their sizes. -/
theorem sizeOfBits_strictMono : StrictMono sizeOfBits := by
  apply strictMono_nat_of_lt_succ
  intro b
  obtain ⟨k, m, rfl, hm, hk⟩ := exists_significand b
  rw [Nat.add_assoc, sizeOfBits_significand (by omega) hk, sizeOfBits_significand (by omega) (by omega)]
  exact Nat.mul_lt_mul_of_pos_right (Nat.lt_succ_self m) (Nat.two_pow_pos k)

@[simp] theorem sizeOfBits_zero : sizeOfBits 0 = 0 :=
  sizeOfBits_significand (k := 0) (m := 0) (by decide) (.inl rfl)

/-- The overflow threshold is halfway between the largest finite size and the one the infinity's bits stand for. -/
theorem two_mul_overflowUnits : 2 * overflowUnits = sizeOfBits (infinityBits - 1) + sizeOfBits infinityBits := by
  have hhalf (u : Nat) : 2 * ((2 ^ 54 - 1) * u) = (2 ^ 53 - 1) * (u * 2) + 2 ^ 53 * (u * 2) := by omega
  have hmax : infinityBits - 1 = 2045 * 2 ^ 52 + (2 ^ 53 - 1) := by decide
  have hinf : infinityBits = 2045 * 2 ^ 52 + 2 ^ 53 := by decide
  rw [hmax, hinf, sizeOfBits_significand (by decide) (.inr (by decide)),
    sizeOfBits_significand (by decide) (.inr (by decide)), overflowUnits, Nat.pow_succ 2 2044, hhalf]

theorem sizeOfBits_infinityBits_pos : 0 < sizeOfBits infinityBits :=
  (Nat.zero_le _).trans_lt (sizeOfBits_strictMono (show 0 < infinityBits by decide))

theorem sizeOfBits_lt_overflowUnits {b : Nat} (h : b < infinityBits) : sizeOfBits b < overflowUnits := by
  have hle : sizeOfBits b ≤ sizeOfBits (infinityBits - 1) := sizeOfBits_strictMono.monotone (Nat.le_sub_one_of_lt h)
  have hlt : sizeOfBits (infinityBits - 1) < sizeOfBits infinityBits := sizeOfBits_strictMono (by decide)
  have := two_mul_overflowUnits
  omega

theorem overflowUnits_pos : 0 < overflowUnits :=
  (Nat.zero_le _).trans_lt (sizeOfBits_lt_overflowUnits (b := 0) (by decide))

/-! ## Values -/

/-- The integer of this sign and size. -/
def signed (neg : Bool) (n : Nat) : Int := if neg then -(n : Int) else n

theorem valueOf_eq (x : F64) : valueOf x = signed x.msb (sizeOfBits (lowBits x)) := by
  rw [← units_eq, Binary64.units, magnitude_eq, sizeOf64_eq]
  rfl

@[simp] theorem natAbs_signed (neg : Bool) (n : Nat) : (signed neg n).natAbs = n := by
  cases neg <;> simp [signed]

theorem natAbs_valueOf (x : F64) : (valueOf x).natAbs = sizeOfBits (lowBits x) := by
  rw [valueOf_eq, natAbs_signed]

theorem signed_mul (a b : Bool) (m n : Nat) : signed a m * signed b n = signed (a != b) (m * n) := by
  cases a <;> cases b <;> simp [signed]

/-- A sign and low bits make a pattern. -/
theorem lowBits_withSign (neg : Bool) {b : Nat} (h : b < 2 ^ 63) : lowBits (Binary64.withSign neg b) = b := by
  rw [lowBits, Binary64.withSign, BitVec.toNat_ofNat]
  split <;> omega

theorem msb_withSign (neg : Bool) {b : Nat} (h : b < 2 ^ 63) : (Binary64.withSign neg b).msb = neg := by
  rw [BitVec.msb_eq_decide]
  cases neg <;> simp [Binary64.withSign] <;> omega

theorem eq_withSign (x : F64) : x = Binary64.withSign x.msb (lowBits x) := by
  have hlt := x.isLt
  apply BitVec.eq_of_toNat_eq
  rw [BitVec.msb_eq_decide, Binary64.withSign, lowBits, BitVec.toNat_ofNat]
  simp only [decide_eq_true_eq]
  split <;> omega

theorem valueOf_withSign (neg : Bool) {b : Nat} (h : b < 2 ^ 63) :
    valueOf (Binary64.withSign neg b) = signed neg (sizeOfBits b) := by
  rw [valueOf_eq, msb_withSign neg h, lowBits_withSign neg h]

theorem getLsbD_zero_eq (x : F64) : x.getLsbD 0 = decide (lowBits x % 2 = 1) := by
  rw [← BitVec.testBit_toNat, Nat.testBit_zero, lowBits]
  exact decide_eq_decide.2 (by omega)

/-! ## What is no finite number -/

theorem infinity_eq (neg : Bool) : Binary64.infinity neg = if neg then minusInfinity else plusInfinity := by
  cases neg <;> rfl

theorem msb_infinity (neg : Bool) : (Binary64.infinity neg).msb = neg :=
  msb_withSign neg (by decide)

theorem eq_infinity {x : F64} (h : infinite x) : x = Binary64.infinity x.msb := by
  conv_lhs => rw [eq_withSign x, (infinite_iff x).1 h]
  rfl

theorem isNaN_nan (choice : NanChoice) (op : FloatOp) (x y : F64) : isNaN (Binary64.nan choice op x y) := by
  rw [← isNaN_iff, Binary64.nan]
  split
  next h => exact h
  next => decide

section Finite

variable {x : F64} (h : finite x)
include h

theorem isInf_of_finite : Binary64.isInf x = false := by
  rw [← Bool.not_eq_true, isInf_iff, infinite_iff]
  exact Nat.ne_of_lt ((finite_iff x).1 h)

theorem isNaN_of_finite : Binary64.isNaN x = false := by
  rw [← Bool.not_eq_true, isNaN_iff, isNaN_iff_lowBits]
  exact Nat.not_lt.2 (Nat.le_of_lt ((finite_iff x).1 h))

end Finite

theorem isNaN_of_infinite {x : F64} (h : infinite x) : Binary64.isNaN x = false := by
  rw [← Bool.not_eq_true, isNaN_iff, isNaN_iff_lowBits, (infinite_iff x).1 h]
  exact Nat.lt_irrefl _

/-- Every pattern that is no NaN is a finite number or an infinity. -/
theorem finite_or_infinite {x : F64} (h : ¬ isNaN x) : finite x ∨ x = minusInfinity ∨ x = plusInfinity := by
  rw [isNaN_iff_lowBits] at h
  by_cases hfin : finite x
  · exact .inl hfin
  · rw [finite_iff] at hfin
    have hx := eq_infinity ((infinite_iff x).2 (by omega))
    rw [infinity_eq] at hx
    split at hx
    · exact .inr (.inl hx)
    · exact .inr (.inr hx)

end Sys2Proof.Proofs

/-! # Rounding (44_signal_decode.md R127, D18)

`Binary64.round` picks the low bits whose size is nearest to the exact one, an even pattern deciding a tie; what the
statements say of rounding, overflow and sign follows from that for every operation. -/

namespace Sys2Proof.Proofs
open Sys2Proof Sys2Proof.Machine Sys2Proof.Spec

/-! ## Nearest low bits -/

/-- How far the low bits' size is from n/den units, in units of 1/den. -/
def offBy (b n den : Nat) : Nat := ((sizeOfBits b * den : Nat) - n : Int).natAbs

/-- No low bits are nearer to n/den units, and only even ones are as near as bits of another size. -/
def NearestBits (b n den : Nat) : Prop :=
  ∀ c, offBy b n den ≤ offBy c n den ∧ (offBy b n den = offBy c n den → b ≠ c → b % 2 = 0)

theorem sizeOfBits_mul_strictMono {den : Nat} (h : 0 < den) : StrictMono fun b => sizeOfBits b * den :=
  fun _ _ hbc => Nat.mul_lt_mul_of_pos_right (sizeOfBits_strictMono hbc) h

/-- Between two neighbours the nearer one is the nearest of all, and of equally near ones the even one. -/
theorem nearestBits_of_between {b lo n den : Nat} (hden : 0 < den) (hlo : sizeOfBits lo * den ≤ n)
    (hhi : n < sizeOfBits (lo + 1) * den)
    (hb : (b = lo ∧ (2 * n < sizeOfBits lo * den + sizeOfBits (lo + 1) * den ∨
            (2 * n = sizeOfBits lo * den + sizeOfBits (lo + 1) * den ∧ lo % 2 = 0))) ∨
          (b = lo + 1 ∧ (sizeOfBits lo * den + sizeOfBits (lo + 1) * den < 2 * n ∨
            (2 * n = sizeOfBits lo * den + sizeOfBits (lo + 1) * den ∧ lo % 2 = 1)))) :
    NearestBits b n den := by
  have hmono := sizeOfBits_mul_strictMono hden
  intro c
  unfold offBy
  have hc : c < lo ∨ c = lo ∨ c = lo + 1 ∨ lo + 1 < c := by omega
  obtain hbelow | rfl | rfl | habove := hc
  · have hlt : sizeOfBits c * den < sizeOfBits lo * den := hmono hbelow
    obtain ⟨rfl, _⟩ | ⟨rfl, _⟩ := hb <;> omega
  · obtain ⟨rfl, _⟩ | ⟨rfl, _⟩ := hb <;> omega
  · obtain ⟨rfl, _⟩ | ⟨rfl, _⟩ := hb <;> omega
  · have hlt : sizeOfBits (lo + 1) * den < sizeOfBits c * den := hmono habove
    obtain ⟨rfl, _⟩ | ⟨rfl, _⟩ := hb <;> omega

/-- `roundShift` keeps the quotient or takes the next one, by the remainder and, on a tie, by the quotient's parity. -/
theorem roundShift_cases (n d : Nat) :
    (Binary64.roundShift n d = n / 2 ^ d ∧
      (2 * (n % 2 ^ d) < 2 ^ d ∨ (2 * (n % 2 ^ d) = 2 ^ d ∧ n / 2 ^ d % 2 = 0))) ∨
    (Binary64.roundShift n d = n / 2 ^ d + 1 ∧
      (2 ^ d < 2 * (n % 2 ^ d) ∨ (2 * (n % 2 ^ d) = 2 ^ d ∧ n / 2 ^ d % 2 = 1))) := by
  unfold Binary64.roundShift
  dsimp only
  split_ifs <;> omega

/-- The quotient that `round` keeps has at most 53 bits, and 53 unless nothing more than the q bits is rounded away. -/
theorem round_quotient (n q : Nat) {k : Nat} (hk : max q (n.log2 - 52) = k + q) :
    n / 2 ^ (k + q) < 2 ^ 53 ∧ (k = 0 ∨ 2 ^ 52 ≤ n / 2 ^ (k + q)) := by
  constructor
  · apply Nat.div_lt_of_lt_mul
    rw [← Nat.pow_add]
    exact Nat.lt_log2_self.trans_le (Nat.pow_le_pow_right (by decide) (by omega))
  · by_cases h0 : k = 0
    · exact .inl h0
    · have hlog : n.log2 = 52 + (k + q) := by omega
      have hn : n ≠ 0 := by
        rintro rfl
        rw [Nat.log2_zero] at hlog
        omega
      right
      rw [Nat.le_div_iff_mul_le (Nat.two_pow_pos _), ← Nat.pow_add, ← hlog]
      exact Nat.log2_self_le hn

/-- The low bits that `round` computes, before the test for overflow. -/
def roundedBits (n q : Nat) : Nat :=
  (max q (n.log2 - 52) - q) * 2 ^ 52 + Binary64.roundShift n (max q (n.log2 - 52))

theorem round_eq (neg : Bool) (n q : Nat) :
    Binary64.round neg n q =
      if infinityBits ≤ roundedBits n q then Binary64.infinity neg else Binary64.withSign neg (roundedBits n q) :=
  rfl

theorem nearestBits_roundedBits (n q : Nat) : NearestBits (roundedBits n q) n (2 ^ q) := by
  obtain ⟨k, hk⟩ : ∃ k, max q (n.log2 - 52) = k + q := ⟨_, (Nat.sub_add_cancel (Nat.le_max_left _ _)).symm⟩
  obtain ⟨hm, hsig⟩ := round_quotient n q hk
  have hdivmod : 2 ^ (k + q) * (n / 2 ^ (k + q)) + n % 2 ^ (k + q) = n := Nat.div_add_mod _ _
  have hmod : n % 2 ^ (k + q) < 2 ^ (k + q) := Nat.mod_lt _ (Nat.two_pow_pos _)
  have hcases := roundShift_cases n (k + q)
  rw [roundedBits, hk, Nat.add_sub_cancel]
  generalize n / 2 ^ (k + q) = m at *
  have hlo : sizeOfBits (k * 2 ^ 52 + m) * 2 ^ q = 2 ^ (k + q) * m := by
    rw [sizeOfBits_significand (by omega) hsig, Nat.pow_add]
    ring
  have hhi : sizeOfBits (k * 2 ^ 52 + m + 1) * 2 ^ q = 2 ^ (k + q) * m + 2 ^ (k + q) := by
    rw [Nat.add_assoc, sizeOfBits_significand (by omega) (by omega), Nat.pow_add]
    ring
  have hparity : (k * 2 ^ 52 + m) % 2 = m % 2 := by omega
  refine nearestBits_of_between (lo := k * 2 ^ 52 + m) (Nat.two_pow_pos q) ?_ ?_ ?_
  · rw [hlo]; omega
  · rw [hhi]; omega
  · rw [hlo, hhi]; omega

/-- The nearest low bits are the infinity's, or beyond them, exactly from the overflow threshold on. -/
theorem infinityBits_le_iff {b n den : Nat} (hden : 0 < den) (h : NearestBits b n den) :
    infinityBits ≤ b ↔ overflowUnits * den ≤ n := by
  have hmono := sizeOfBits_mul_strictMono hden
  have hthreshold : 2 * (overflowUnits * den) =
      sizeOfBits (infinityBits - 1) * den + sizeOfBits infinityBits * den := by
    rw [← Nat.mul_assoc, two_mul_overflowUnits, Nat.add_mul]
  have hstep : sizeOfBits (infinityBits - 1) * den < sizeOfBits infinityBits * den := hmono (by decide)
  have hodd : (infinityBits - 1) % 2 = 1 := by decide
  constructor
  · intro hb
    have hge : sizeOfBits infinityBits * den ≤ sizeOfBits b * den := hmono.monotone hb
    obtain ⟨hoff, -⟩ := h (infinityBits - 1)
    unfold offBy at hoff
    omega
  · intro hn
    by_contra hb
    obtain ⟨hoff, htie⟩ := h infinityBits
    unfold offBy at hoff htie
    have hlast : b = infinityBits - 1 ∨ b < infinityBits - 1 := by omega
    obtain rfl | hlt := hlast
    · have := htie (by omega) (by decide)
      omega
    · have hlt' : sizeOfBits b * den < sizeOfBits (infinityBits - 1) * den := hmono hlt
      omega

/-! ## Signs -/

/-- A number of the exact one's sign is as far from it as their sizes are from each other. -/
theorem natAbs_signed_sub_signed (neg : Bool) (a n den : Nat) :
    (signed neg a * den - signed neg n).natAbs = ((a * den : Nat) - n : Int).natAbs := by
  have hcast : (a : Int) * den = (a * den : Nat) := (Int.natCast_mul a den).symm
  cases neg with
  | false => simp only [signed, Bool.false_eq_true, if_false, hcast]
  | true => simp only [signed, if_true, Int.neg_mul, hcast]; omega

/-- A number of the other sign is as far from the exact one as their sizes together. -/
theorem natAbs_signed_not_sub_signed (neg : Bool) (a n den : Nat) :
    (signed (!neg) a * den - signed neg n).natAbs = a * den + n := by
  have hcast : (a : Int) * den = (a * den : Nat) := (Int.natCast_mul a den).symm
  cases neg with
  | false => simp only [signed, Bool.not_false, if_true, Bool.false_eq_true, if_false, Int.neg_mul, hcast]; omega
  | true => simp only [signed, Bool.not_true, if_true, Bool.false_eq_true, if_false, hcast]; omega

theorem nearestTo_withSign (neg : Bool) {b n den : Nat} (hb : b < infinityBits) (h : NearestBits b n den) :
    NearestTo (Binary64.withSign neg b) (signed neg n) den := by
  have hb63 : b < 2 ^ 63 := hb.trans (by decide)
  have heven : b % 2 = 0 → (Binary64.withSign neg b).getLsbD 0 = false := fun h0 => by
    rw [getLsbD_zero_eq, lowBits_withSign neg hb63, h0]
    rfl
  constructor
  · rwa [finite_iff, lowBits_withSign neg hb63]
  intro y _
  rw [valueOf_withSign neg hb63, valueOf_eq y, Int.abs_eq_natAbs, Int.abs_eq_natAbs, natAbs_signed_sub_signed,
    Int.ofNat_le, Int.ofNat_inj]
  change offBy b n den ≤ _ ∧ (offBy b n den = _ → _)
  obtain hsame | hother : y.msb = neg ∨ y.msb = !neg := by cases y.msb <;> cases neg <;> decide
  · rw [hsame, natAbs_signed_sub_signed]
    obtain ⟨hoff, htie⟩ := h (lowBits y)
    exact ⟨hoff, fun heq hne => heven (htie heq fun hbits => hne (by rw [hbits]))⟩
  · rw [hother, natAbs_signed_not_sub_signed]
    obtain ⟨hoff, htie⟩ := h 0
    have hzero : offBy 0 n den = n := by rw [offBy, sizeOfBits_zero, Nat.zero_mul]; omega
    rw [hzero] at hoff htie
    refine ⟨by omega, fun heq _ => heven ?_⟩
    by_cases hb0 : b = 0
    · rw [hb0]
    · exact htie (by omega) hb0

/-! ## `round` -/

/-- `round` is correct rounding, to the infinity of the sign from the threshold on. -/
theorem roundedTo_round (neg : Bool) (n q : Nat) : RoundedTo (Binary64.round neg n q) (signed neg n) (2 ^ q) := by
  have hnear := nearestBits_roundedBits n q
  have hover := infinityBits_le_iff (Nat.two_pow_pos q) hnear
  rw [RoundedTo, Int.abs_eq_natAbs, natAbs_signed, ← Int.natCast_mul, Int.ofNat_lt, Int.ofNat_le, round_eq]
  constructor
  · intro hlt
    have hfin : ¬ infinityBits ≤ roundedBits n q := fun hb => absurd (hover.1 hb) (Nat.not_le.2 hlt)
    rw [if_neg hfin]
    exact nearestTo_withSign neg (Nat.lt_of_not_le hfin) hnear
  · intro hle
    have hpos : 0 < n := (Nat.mul_pos overflowUnits_pos (Nat.two_pow_pos q)).trans_le hle
    have hsign : signed neg n < 0 ↔ neg = true := by cases neg <;> simp [signed, hpos]
    rw [if_pos (hover.2 hle), infinity_eq]
    simp only [hsign]

theorem negative_round (neg : Bool) (n q : Nat) : negative (Binary64.round neg n q) ↔ neg = true := by
  rw [← msb_iff_negative, round_eq]
  split
  next => rw [msb_infinity]
  next hfin => rw [msb_withSign neg ((Nat.lt_of_not_le hfin).trans (by decide))]

end Sys2Proof.Proofs

/-! # The binary64 operations (44_signal_decode.md R127, R128, R131)

Each operation on finite numbers as one rounding of the exact result, what the other operands give, and the order. -/

namespace Sys2Proof.Proofs
open Sys2Proof Sys2Proof.Machine Sys2Proof.Spec

/-! ## The record -/

section Numerics

variable (choice : NanChoice)

@[simp] theorem numerics_ofInt : (Binary64.numerics choice).ofInt = Binary64.ofInt := by rw [Binary64.numerics]
@[simp] theorem numerics_add : (Binary64.numerics choice).add = Binary64.add choice := rfl
@[simp] theorem numerics_sub : (Binary64.numerics choice).sub = Binary64.sub choice := rfl
@[simp] theorem numerics_mul : (Binary64.numerics choice).mul = Binary64.mul choice := rfl
@[simp] theorem numerics_lt : (Binary64.numerics choice).lt = Binary64.lt := rfl
@[simp] theorem numerics_le : (Binary64.numerics choice).le = Binary64.le := rfl

end Numerics

/-! ## of_int -/

theorem signed_natAbs (v : Int) : signed (decide (v < 0)) v.natAbs = v := by
  unfold signed
  split
  next h => have := of_decide_eq_true h; omega
  next h => have := of_decide_eq_false (eq_false_of_ne_true h); omega

theorem signed_mul_natCast (neg : Bool) (m n : Nat) : signed neg (m * n) = signed neg m * n := by
  cases neg <;> simp [signed]

theorem roundedTo_ofInt (v : Int) : RoundedTo (Binary64.ofInt v) (v * 2 ^ 1074) 1 := by
  have h := roundedTo_round (decide (v < 0)) (v.natAbs * 2 ^ 1074) 0
  rwa [signed_mul_natCast, signed_natAbs, Nat.cast_pow, Nat.cast_ofNat] at h

theorem negative_ofInt (v : Int) : negative (Binary64.ofInt v) ↔ v < 0 := by
  rw [Binary64.ofInt, negative_round, decide_eq_true_eq]

/-! ## The other sign -/

theorem msb_negate (x : F64) : (Binary64.negate x).msb = !x.msb := by
  rw [Binary64.negate, BitVec.msb_xor]
  exact Bool.xor_true _

theorem lowBits_negate (x : F64) : lowBits (Binary64.negate x) = lowBits x := by
  rw [lowBits, Binary64.negate, BitVec.toNat_xor, Nat.xor_mod_two_pow]
  exact Nat.xor_zero _

theorem finite_negate {x : F64} : finite (Binary64.negate x) ↔ finite x := by
  rw [finite_iff, finite_iff, lowBits_negate]

theorem infinite_negate {x : F64} : infinite (Binary64.negate x) ↔ infinite x := by
  rw [infinite_iff, infinite_iff, lowBits_negate]

theorem negative_negate (x : F64) : negative (Binary64.negate x) ↔ ¬ negative x := by
  rw [← msb_iff_negative, ← msb_iff_negative, msb_negate, Bool.not_eq_true, Bool.not_eq_true']

theorem valueOf_negate (x : F64) : valueOf (Binary64.negate x) = -valueOf x := by
  rw [valueOf_eq, valueOf_eq, lowBits_negate, msb_negate]
  cases x.msb <;> simp [signed]

/-! ## NaNs -/

section NotNaN

variable {x y : F64} (choice : NanChoice)

theorem add_of_isNaN (h : isNaN x ∨ isNaN y) : isNaN (Binary64.add choice x y) := by
  rw [← isNaN_iff, ← isNaN_iff, ← Bool.or_eq_true] at h
  rw [Binary64.add, if_pos h]
  exact isNaN_nan _ _ _ _

theorem sub_of_isNaN (h : isNaN x ∨ isNaN y) : isNaN (Binary64.sub choice x y) := by
  rw [← isNaN_iff, ← isNaN_iff, ← Bool.or_eq_true] at h
  rw [Binary64.sub, if_pos h]
  exact isNaN_nan _ _ _ _

theorem mul_of_isNaN (h : isNaN x ∨ isNaN y) : isNaN (Binary64.mul choice x y) := by
  rw [← isNaN_iff, ← isNaN_iff, ← Bool.or_eq_true] at h
  rw [Binary64.mul, if_pos h]
  exact isNaN_nan _ _ _ _

variable (hx : Binary64.isNaN x = false) (hy : Binary64.isNaN y = false)
include hx hy

theorem add_of_some {z : F64} (h : Binary64.addValue x y = some z) : Binary64.add choice x y = z := by
  rw [Binary64.add, hx, hy, h]; rfl

theorem add_of_none (h : Binary64.addValue x y = none) : isNaN (Binary64.add choice x y) := by
  rw [Binary64.add, hx, hy, h]; exact isNaN_nan _ _ _ _

theorem sub_of_some {z : F64} (h : Binary64.addValue x (Binary64.negate y) = some z) : Binary64.sub choice x y = z := by
  rw [Binary64.sub, hx, hy, h]; rfl

theorem sub_of_none (h : Binary64.addValue x (Binary64.negate y) = none) : isNaN (Binary64.sub choice x y) := by
  rw [Binary64.sub, hx, hy, h]; exact isNaN_nan _ _ _ _

theorem mul_of_some {z : F64} (h : Binary64.mulValue x y = some z) : Binary64.mul choice x y = z := by
  rw [Binary64.mul, hx, hy, h]; rfl

theorem mul_of_none (h : Binary64.mulValue x y = none) : isNaN (Binary64.mul choice x y) := by
  rw [Binary64.mul, hx, hy, h]; exact isNaN_nan _ _ _ _

end NotNaN

/-! ## Finite operands -/

/-- The sign of a sum: the exact one's, and of a zero the sign that both operands share (D18). -/
def sumSign (x y : F64) : Bool :=
  if valueOf x + valueOf y = 0 then x.msb && y.msb else decide (valueOf x + valueOf y < 0)

/-- The sum of two finite numbers: the exact one, rounded once. -/
def roundedSum (x y : F64) : F64 :=
  Binary64.round (sumSign x y) (valueOf x + valueOf y).natAbs 0

theorem signed_sumSign (x y : F64) : signed (sumSign x y) (valueOf x + valueOf y).natAbs = valueOf x + valueOf y := by
  unfold sumSign
  split
  next h => rw [h]; cases x.msb && y.msb <;> rfl
  next => exact signed_natAbs _

theorem roundedTo_roundedSum (x y : F64) : RoundedTo (roundedSum x y) (valueOf x + valueOf y) 1 := by
  have h := roundedTo_round (sumSign x y) (valueOf x + valueOf y).natAbs 0
  rwa [signed_sumSign] at h

theorem negative_roundedSum_of_ne {x y : F64} (h : valueOf x + valueOf y ≠ 0) :
    negative (roundedSum x y) ↔ valueOf x + valueOf y < 0 := by
  rw [roundedSum, negative_round, sumSign, if_neg h, decide_eq_true_eq]

theorem negative_roundedSum_of_eq {x y : F64} (h : valueOf x + valueOf y = 0) :
    negative (roundedSum x y) ↔ negative x ∧ negative y := by
  rw [roundedSum, negative_round, sumSign, if_pos h, Bool.and_eq_true, msb_iff_negative, msb_iff_negative]

section Finite

variable {x y : F64} (hx : finite x) (hy : finite y)
include hx hy

theorem addValue_finite : Binary64.addValue x y = some (roundedSum x y) := by
  simp only [Binary64.addValue, isInf_of_finite hx, isInf_of_finite hy, Bool.false_eq_true, if_false, units_eq,
    roundedSum, sumSign]
  split
  next h =>
    rw [h]
    cases x.msb && y.msb <;> rfl
  next => rfl

theorem add_finite (choice : NanChoice) : Binary64.add choice x y = roundedSum x y :=
  add_of_some choice (isNaN_of_finite hx) (isNaN_of_finite hy) (addValue_finite hx hy)

theorem sub_finite (choice : NanChoice) : Binary64.sub choice x y = roundedSum x (Binary64.negate y) :=
  sub_of_some choice (isNaN_of_finite hx) (isNaN_of_finite hy) (addValue_finite hx (finite_negate.2 hy))

theorem mulValue_finite :
    Binary64.mulValue x y = some (Binary64.round (x.msb != y.msb) (sizeOf64 x * sizeOf64 y) 1074) := by
  simp only [Binary64.mulValue, isInf_of_finite hx, isInf_of_finite hy, Bool.or_self, Bool.false_eq_true, if_false,
    magnitude_eq]

theorem mul_finite (choice : NanChoice) :
    Binary64.mul choice x y = Binary64.round (x.msb != y.msb) (sizeOf64 x * sizeOf64 y) 1074 :=
  mul_of_some choice (isNaN_of_finite hx) (isNaN_of_finite hy) (mulValue_finite hx hy)

theorem roundedTo_mul (choice : NanChoice) :
    RoundedTo (Binary64.mul choice x y) (valueOf x * valueOf y) (2 ^ 1074) := by
  rw [mul_finite hx hy, valueOf_eq x, valueOf_eq y, signed_mul, ← sizeOf64_eq, ← sizeOf64_eq]
  exact roundedTo_round (x.msb != y.msb) _ 1074

theorem negative_mul (choice : NanChoice) :
    negative (Binary64.mul choice x y) ↔ ¬ (negative x ↔ negative y) := by
  rw [mul_finite hx hy, negative_round, bne_iff_ne, ne_eq, Bool.eq_iff_iff, msb_iff_negative, msb_iff_negative]

end Finite

/-- Settles O36: each operation is `round` of the exact result, which `roundedTo_round` says is correct rounding. -/
theorem arithmeticCorrectlyRounded : Obligations.ArithmeticCorrectlyRounded := by
  unfold Obligations.ArithmeticCorrectlyRounded
  refine ⟨rfl, fun choice => ?_⟩
  simp only [numerics_ofInt, numerics_add, numerics_sub, numerics_mul]
  refine ⟨fun v => ⟨roundedTo_ofInt v, negative_ofInt v⟩, fun x y hx hy => ⟨?_, ?_, ?_⟩⟩
  · rw [add_finite hx hy]
    exact ⟨roundedTo_roundedSum x y, negative_roundedSum_of_ne, negative_roundedSum_of_eq⟩
  · rw [sub_finite hx hy, ← negative_negate, sub_eq_add_neg, ← valueOf_negate]
    exact ⟨roundedTo_roundedSum _ _, negative_roundedSum_of_ne, negative_roundedSum_of_eq⟩
  · exact ⟨roundedTo_mul hx hy choice, negative_mul hx hy choice⟩

/-! ## Infinite operands -/

section Infinite

variable {x y : F64}

theorem isInf_of_infinite (h : infinite x) : Binary64.isInf x = true :=
  (isInf_iff x).2 h

/-- Infinities of opposite signs have no sum. -/
theorem addValue_opposite (hx : infinite x) (hy : infinite y) (h : x.msb ≠ y.msb) : Binary64.addValue x y = none := by
  simp [Binary64.addValue, isInf_of_infinite hx, isInf_of_infinite hy, h]

theorem addValue_same (hx : infinite x) (h : x.msb = y.msb) : Binary64.addValue x y = some x := by
  simp [Binary64.addValue, isInf_of_infinite hx, h]

theorem addValue_infinite_finite (hx : infinite x) (hy : finite y) : Binary64.addValue x y = some x := by
  simp [Binary64.addValue, isInf_of_infinite hx, isInf_of_finite hy]

theorem addValue_finite_infinite (hx : finite x) (hy : infinite y) : Binary64.addValue x y = some y := by
  simp [Binary64.addValue, isInf_of_finite hx, isInf_of_infinite hy]

theorem magnitude_eq_zero_iff (x : F64) : Binary64.magnitude x = 0 ↔ valueOf x = 0 := by
  rw [magnitude_eq, sizeOf64_eq, ← natAbs_valueOf, Int.natAbs_eq_zero]

theorem valueOf_ne_zero_of_infinite (h : infinite x) : valueOf x ≠ 0 := by
  rw [← Int.natAbs_ne_zero, natAbs_valueOf, (infinite_iff x).1 h]
  exact Nat.ne_of_gt sizeOfBits_infinityBits_pos

/-- A product with an infinity: of the operands' sign, and none with a zero. -/
theorem mulValue_of_infinite (h : infinite x ∨ infinite y) :
    Binary64.mulValue x y =
      if valueOf x = 0 ∨ valueOf y = 0 then none else some (Binary64.infinity (x.msb != y.msb)) := by
  rw [← isInf_iff, ← isInf_iff, ← Bool.or_eq_true] at h
  rw [Binary64.mulValue, if_pos h]
  simp only [Bool.or_eq_true, decide_eq_true_eq, magnitude_eq_zero_iff]

theorem eq_iff_msb_eq (hx : infinite x) (hy : infinite y) : x = y ↔ x.msb = y.msb := by
  constructor
  · exact congrArg BitVec.msb
  · intro h
    rw [eq_infinity hx, eq_infinity hy, h]

end Infinite

section TwoInfinities

variable {x y : F64} (choice : NanChoice) (hx : infinite x) (hy : infinite y)
include hx hy

theorem add_infinities_same (h : x.msb = y.msb) : Binary64.add choice x y = x :=
  add_of_some choice (isNaN_of_infinite hx) (isNaN_of_infinite hy) (addValue_same hx h)

theorem add_infinities_opposite (h : x.msb ≠ y.msb) : isNaN (Binary64.add choice x y) :=
  add_of_none choice (isNaN_of_infinite hx) (isNaN_of_infinite hy) (addValue_opposite hx hy h)

theorem sub_infinities_same (h : x.msb = y.msb) : isNaN (Binary64.sub choice x y) := by
  have hopposite : x.msb ≠ (Binary64.negate y).msb := by
    rw [msb_negate, h]
    exact (Bool.not_ne_self _).symm
  exact sub_of_none choice (isNaN_of_infinite hx) (isNaN_of_infinite hy)
    (addValue_opposite hx (infinite_negate.2 hy) hopposite)

theorem sub_infinities_opposite (h : x.msb ≠ y.msb) : Binary64.sub choice x y = x := by
  have hsame : x.msb = (Binary64.negate y).msb := by
    rw [msb_negate]
    exact Bool.eq_not.2 h
  exact sub_of_some choice (isNaN_of_infinite hx) (isNaN_of_infinite hy) (addValue_same hx hsame)

theorem mul_infinities : Binary64.mul choice x y = Binary64.infinity (x.msb != y.msb) := by
  have hne : ¬ (valueOf x = 0 ∨ valueOf y = 0) :=
    not_or.2 ⟨valueOf_ne_zero_of_infinite hx, valueOf_ne_zero_of_infinite hy⟩
  exact mul_of_some choice (isNaN_of_infinite hx) (isNaN_of_infinite hy)
    ((mulValue_of_infinite (.inl hx)).trans (if_neg hne))

end TwoInfinities

section InfinityAndFinite

variable {x y : F64} (choice : NanChoice) (hx : infinite x) (hy : finite y)
include hx hy

theorem add_infinite_finite : Binary64.add choice x y = x :=
  add_of_some choice (isNaN_of_infinite hx) (isNaN_of_finite hy) (addValue_infinite_finite hx hy)

theorem add_finite_infinite : Binary64.add choice y x = x :=
  add_of_some choice (isNaN_of_finite hy) (isNaN_of_infinite hx) (addValue_finite_infinite hy hx)

theorem sub_infinite_finite : Binary64.sub choice x y = x :=
  sub_of_some choice (isNaN_of_infinite hx) (isNaN_of_finite hy)
    (addValue_infinite_finite hx (finite_negate.2 hy))

theorem sub_finite_infinite : Binary64.sub choice y x = Binary64.infinity (!x.msb) := by
  rw [← msb_negate, ← eq_infinity (infinite_negate.2 hx)]
  exact sub_of_some choice (isNaN_of_finite hy) (isNaN_of_infinite hx)
    (addValue_finite_infinite hy (infinite_negate.2 hx))

theorem mul_infinite_zero (h : valueOf y = 0) :
    isNaN (Binary64.mul choice x y) ∧ isNaN (Binary64.mul choice y x) :=
  ⟨mul_of_none choice (isNaN_of_infinite hx) (isNaN_of_finite hy)
      ((mulValue_of_infinite (.inl hx)).trans (if_pos (.inr h))),
    mul_of_none choice (isNaN_of_finite hy) (isNaN_of_infinite hx)
      ((mulValue_of_infinite (.inr hx)).trans (if_pos (.inl h)))⟩

theorem mul_infinite_finite (h : valueOf y ≠ 0) :
    Binary64.mul choice x y = Binary64.infinity (x.msb != y.msb) ∧
    Binary64.mul choice y x = Binary64.infinity (y.msb != x.msb) :=
  have hx0 := valueOf_ne_zero_of_infinite hx
  ⟨mul_of_some choice (isNaN_of_infinite hx) (isNaN_of_finite hy)
      ((mulValue_of_infinite (.inl hx)).trans (if_neg (not_or.2 ⟨hx0, h⟩))),
    mul_of_some choice (isNaN_of_finite hy) (isNaN_of_infinite hx)
      ((mulValue_of_infinite (.inr hx)).trans (if_neg (not_or.2 ⟨h, hx0⟩)))⟩

end InfinityAndFinite

/-- The infinity of a product, by whether the operands' signs agree. -/
theorem infinity_bne_of_iff {x y : F64} (h : negative x ↔ negative y) :
    Binary64.infinity (x.msb != y.msb) = plusInfinity := by
  rw [← msb_iff_negative, ← msb_iff_negative, ← Bool.eq_iff_iff] at h
  rw [h, bne_self_eq_false, infinity_eq]
  rfl

theorem infinity_bne_of_not_iff {x y : F64} (h : ¬ (negative x ↔ negative y)) :
    Binary64.infinity (x.msb != y.msb) = minusInfinity := by
  rw [← msb_iff_negative, ← msb_iff_negative, ← Bool.eq_iff_iff] at h
  rw [bne_iff_ne.2 h, infinity_eq]
  rfl

/-- Settles O37: a NaN operand first, then two infinities by their signs, then an infinity and a finite number. -/
theorem arithmeticOnInfinitiesAndNaNs : Obligations.ArithmeticOnInfinitiesAndNaNs := by
  unfold Obligations.ArithmeticOnInfinitiesAndNaNs
  intro choice x y
  simp only [numerics_add, numerics_sub, numerics_mul]
  refine ⟨fun h => ⟨add_of_isNaN choice h, sub_of_isNaN choice h, mul_of_isNaN choice h⟩, fun hx hy => ⟨?_, ?_⟩,
    fun hx hy => ⟨add_infinite_finite choice hx hy, sub_infinite_finite choice hx hy,
      add_finite_infinite choice hx hy, ?_, ?_, mul_infinite_zero choice hx hy, ?_⟩⟩
  · rintro rfl
    exact ⟨add_infinities_same choice hx hx rfl, sub_infinities_same choice hx hx rfl,
      (mul_infinities choice hx hx).trans (infinity_bne_of_iff Iff.rfl)⟩
  · intro hne
    have hmsb : x.msb ≠ y.msb := fun h => hne ((eq_iff_msb_eq hx hy).2 h)
    have hsigns : ¬ (negative x ↔ negative y) := by
      rwa [← msb_iff_negative, ← msb_iff_negative, ← Bool.eq_iff_iff]
    exact ⟨add_infinities_opposite choice hx hy hmsb, sub_infinities_opposite choice hx hy hmsb,
      (mul_infinities choice hx hy).trans (infinity_bne_of_not_iff hsigns)⟩
  · intro h
    rw [sub_finite_infinite choice hx hy, (msb_iff_negative x).2 h, infinity_eq]
    rfl
  · intro h
    rw [← msb_iff_negative, Bool.not_eq_true] at h
    rw [sub_finite_infinite choice hx hy, h, infinity_eq]
    rfl
  · intro h
    obtain ⟨hxy, hyx⟩ := mul_infinite_finite choice hx hy h
    rw [hxy, hyx]
    exact ⟨by rw [bne_comm], infinity_bne_of_iff, infinity_bne_of_not_iff⟩

/-! ## The order -/

theorem valueOf_plusInfinity : valueOf plusInfinity = sizeOfBits infinityBits :=
  valueOf_withSign false (b := infinityBits) (by decide)

theorem valueOf_minusInfinity : valueOf minusInfinity = -sizeOfBits infinityBits :=
  valueOf_withSign true (b := infinityBits) (by decide)

theorem natAbs_valueOf_lt_of_finite {x : F64} (h : finite x) : (valueOf x).natAbs < sizeOfBits infinityBits := by
  rw [natAbs_valueOf]
  exact sizeOfBits_strictMono ((finite_iff x).1 h)

/-- The size that the infinities' bits stand for bounds every value, and only the infinities reach it. -/
theorem placed_by_valueOf {x : F64} (h : ¬ isNaN x) :
    (valueOf x).natAbs ≤ sizeOfBits infinityBits ∧
    (finite x ↔ (valueOf x).natAbs < sizeOfBits infinityBits) ∧
    (x = minusInfinity ↔ valueOf x = -sizeOfBits infinityBits) ∧
    (x = plusInfinity ↔ valueOf x = sizeOfBits infinityBits) := by
  have hpos := sizeOfBits_infinityBits_pos
  have hminus := valueOf_minusInfinity
  have hplus := valueOf_plusInfinity
  obtain hfin | rfl | rfl := finite_or_infinite h
  · have hlt := natAbs_valueOf_lt_of_finite hfin
    refine ⟨Nat.le_of_lt hlt, iff_of_true hfin hlt, iff_of_false ?_ (by omega), iff_of_false ?_ (by omega)⟩ <;>
    · rintro rfl
      omega
  · have hne : ¬ finite minusInfinity := by rw [finite_iff]; decide
    exact ⟨by omega, iff_of_false hne (by omega), iff_of_true rfl hminus, iff_of_false (by decide) (by omega)⟩
  · have hne : ¬ finite plusInfinity := by rw [finite_iff]; decide
    exact ⟨by omega, iff_of_false hne (by omega), iff_of_false (by decide) (by omega), iff_of_true rfl hplus⟩

theorem lt_iff (x y : F64) : Binary64.lt x y = true ↔ ¬ isNaN x ∧ ¬ isNaN y ∧ valueOf x < valueOf y := by
  simp only [Binary64.lt, Bool.and_eq_true, Bool.not_eq_true', ← isNaN_iff, Bool.not_eq_true, decide_eq_true_eq,
    units_eq, and_assoc]

theorem le_iff (x y : F64) : Binary64.le x y = true ↔ ¬ isNaN x ∧ ¬ isNaN y ∧ valueOf x ≤ valueOf y := by
  simp only [Binary64.le, Bool.and_eq_true, Bool.not_eq_true', ← isNaN_iff, Bool.not_eq_true, decide_eq_true_eq,
    units_eq, and_assoc]

/-- Settles O38: with the infinities placed at the ends of the values, the clauses are the order of integers. -/
theorem comparisonsAreTheValueOrder : Obligations.ComparisonsAreTheValueOrder := by
  unfold Obligations.ComparisonsAreTheValueOrder
  intro choice x y
  simp only [numerics_lt, numerics_le]
  refine ⟨(lt_iff x y).trans (and_congr_right fun hx => and_congr_right fun hy => ?_),
    (le_iff x y).trans (and_congr_right fun hx => and_congr_right fun hy => ?_)⟩
  all_goals
    obtain ⟨hxle, hxfin, hxminus, hxplus⟩ := placed_by_valueOf hx
    obtain ⟨hyle, hyfin, hyminus, hyplus⟩ := placed_by_valueOf hy
  · rw [ne_eq, ne_eq, hxfin, hyfin, hxminus, hyminus, hxplus, hyplus]
    omega
  · rw [hxfin, hyfin, hxminus, hyplus]
    omega

end Sys2Proof.Proofs

/-! # SCALE by 1 (44_signal_decode.md R127)

A result that is itself a binary64 value is not rounded: multiplying by 1 and adding 0 keep the value of_int gives. -/

namespace Sys2Proof.Proofs
open Sys2Proof Sys2Proof.Machine Sys2Proof.Spec

theorem abs_valueOf_lt_overflowUnits {x : F64} (h : finite x) : |valueOf x| < overflowUnits := by
  rw [Int.abs_eq_natAbs, natAbs_valueOf, Int.ofNat_lt]
  exact sizeOfBits_lt_overflowUnits ((finite_iff x).1 h)

/-- An exact result that is a finite binary64 value is rounded to that value. -/
theorem valueOf_of_roundedTo {x a : F64} {den : Nat} (ha : finite a) (hden : 0 < den)
    (h : RoundedTo x (valueOf a * den) den) : finite x ∧ valueOf x = valueOf a := by
  have hd : (0 : Int) < den := Int.natCast_pos.2 hden
  have hbelow : |valueOf a * den| < overflowUnits * den := by
    rw [abs_mul, Nat.abs_cast]
    exact mul_lt_mul_of_pos_right (abs_valueOf_lt_overflowUnits ha) hd
  obtain ⟨hfin, hnear⟩ := h.1 hbelow
  refine ⟨hfin, mul_right_cancel₀ hd.ne' (sub_eq_zero.1 (abs_nonpos_iff.1 ?_))⟩
  have hle := (hnear a ha).1
  rwa [sub_self, abs_zero] at hle

/-- Finite patterns of one value differ in nothing but a zero's sign. -/
theorem lowBits_eq_of_valueOf_eq {x y : F64} (h : valueOf x = valueOf y) : lowBits x = lowBits y := by
  apply sizeOfBits_strictMono.injective
  rw [← natAbs_valueOf, ← natAbs_valueOf, h]

theorem nearestTo_of_valueOf_eq {x y : F64} {num : Int} {den : Nat} (h : NearestTo x num den) (hy : finite y)
    (heq : valueOf y = valueOf x) : NearestTo y num den := by
  refine ⟨hy, fun z hz => ?_⟩
  rw [heq, getLsbD_zero_eq, lowBits_eq_of_valueOf_eq heq, ← getLsbD_zero_eq]
  exact h.2 z hz

/-- The binary64 pattern of 1. -/
def one64 : F64 := 0x3FF0000000000000#64

theorem finite_one64 : finite one64 := by
  rw [finite_iff]
  decide

theorem finite_zero64 : finite 0#64 := by
  rw [finite_iff]
  decide

theorem signed_false (n : Nat) : signed false n = n := rfl

theorem valueOf_one64 : valueOf one64 = (2 ^ 1074 : Nat) := by
  have hbits : lowBits one64 = 1022 * 2 ^ 52 + 2 ^ 52 := by decide
  have hmsb : one64.msb = false := by decide
  have hexp : 1074 = 52 + 1022 := rfl
  rw [valueOf_eq, hmsb, hbits, sizeOfBits_significand (by decide) (.inr (Nat.le_refl _)), signed_false, hexp,
    Nat.pow_add]

theorem valueOf_zero64 : valueOf 0#64 = 0 := by
  have hbits : lowBits 0#64 = 0 := by decide
  rw [← Int.natAbs_eq_zero, natAbs_valueOf, hbits, sizeOfBits_zero]

section Exact

variable {a : F64} (ha : finite a) (choice : NanChoice)
include ha

theorem mul_one64 : finite (Binary64.mul choice a one64) ∧ valueOf (Binary64.mul choice a one64) = valueOf a := by
  have h := roundedTo_mul ha finite_one64 choice
  rw [valueOf_one64] at h
  exact valueOf_of_roundedTo (den := 2 ^ 1074) ha (pow_pos two_pos 1074) h

theorem add_zero64 : finite (Binary64.add choice a 0#64) ∧ valueOf (Binary64.add choice a 0#64) = valueOf a := by
  have h := roundedTo_roundedSum a 0#64
  rw [← add_finite ha finite_zero64 choice, valueOf_zero64, add_zero] at h
  refine valueOf_of_roundedTo ha Nat.one_pos ?_
  rwa [Nat.cast_one, mul_one]

end Exact

theorem natAbs_mul_two_pow (v : Int) (k : Nat) : (v * 2 ^ k).natAbs = v.natAbs * 2 ^ k := by
  rw [Int.natAbs_mul, Int.natAbs_pow]
  rfl

theorem integer_le_overflowUnits : 2 ^ 64 * 2 ^ 1074 ≤ overflowUnits := by
  have hleft (u : Nat) : u ≤ (2 ^ 54 - 1) * u := by omega
  have hpow {j k : Nat} (h : j ≤ k) : 2 ^ j ≤ (2 ^ 54 - 1) * 2 ^ k :=
    (Nat.pow_le_pow_right two_pos h).trans (hleft _)
  rw [overflowUnits, ← pow_add]
  exact hpow (by decide)

/-- An integer that a raw value stands for is below the overflow threshold. -/
theorem nearestTo_ofInt {v : Int} (h : v.natAbs < 2 ^ 64) : NearestTo (Binary64.ofInt v) (v * 2 ^ 1074) 1 := by
  refine (roundedTo_ofInt v).1 ?_
  rw [Int.abs_eq_natAbs, natAbs_mul_two_pow, Nat.cast_one, mul_one, Int.ofNat_lt]
  have hlt (k : Nat) : v.natAbs * 2 ^ k < 2 ^ 64 * 2 ^ k := Nat.mul_lt_mul_of_pos_right h (Nat.two_pow_pos k)
  exact (hlt 1074).trans_le integer_le_overflowUnits

theorem natAbs_sval_lt (raw : BitVec 64) (isSigned : Bool) : (sval raw isSigned).natAbs < 2 ^ 64 := by
  have hlt := raw.isLt
  have hlow := BitVec.le_toInt raw
  have hhigh := BitVec.toInt_lt (x := raw)
  cases isSigned with
  | false => rw [sval_unsigned]; omega
  | true => rw [sval_signed]; omega

theorem f64_ofOpen (o : OpenConfig) : (Config.ofOpen o).f64 = Binary64.numerics o.nanChoice := rfl

/-- Settles O39: of_int is nearest to the integer, and the two steps after it are exact. -/
theorem scaleByOneIsNearestInteger : Obligations.ScaleByOneIsNearestInteger := by
  unfold Obligations.ScaleByOneIsNearestInteger
  intro raw sd s hsd
  refine ⟨exec_scale raw s hsd, fun o hfix hscale hoffset => ?_⟩
  have hnear := nearestTo_ofInt (natAbs_sval_lt raw sd.isSigned)
  obtain ⟨hmulFin, hmul⟩ := mul_one64 hnear.1 o.nanChoice
  obtain ⟨haddFin, hadd⟩ := add_zero64 hmulFin o.nanChoice
  have hplain : scale (Config.ofOpen o) raw sd =
      Binary64.add o.nanChoice (Binary64.mul o.nanChoice (Binary64.ofInt (sval raw sd.isSigned)) one64) 0#64 := by
    rw [scale_of_no_tempFix (cfg := Config.ofOpen o) hfix, plainScale, hscale, hoffset, f64_ofOpen, numerics_add,
      numerics_mul, numerics_ofInt, one64]
  have hsval : (if sd.isSigned then raw.toInt else (raw.toNat : Int)) = sval raw sd.isSigned := rfl
  rw [hplain, hsval]
  exact nearestTo_of_valueOf_eq hnear haddFin (hadd.trans hmul)

end Sys2Proof.Proofs

/-! # Reads and writes at the cursor (45_cursor_primitives.md R140 to R142, R146 to R149)

A read as the number that stands at the cursor, a write as the payload it leaves, and one after the other. -/

namespace Sys2Proof.Proofs
open Sys2Proof Sys2Proof.Machine Sys2Proof.Spec

/-! ## Answers of an operation that may fail -/

section Respond

variable {α : Type} {result : α → Result} {e : Except Failure α} {ok : Bool} {s : State}

theorem answerIf_respond_ok (hok : ok = true) {x : α} (h : e = .ok x) :
    answerIf ok s (respond result e) = answers s (result x) := by
  rw [answerIf_of hok, h]
  rfl

theorem answerIf_respond_error (hok : ok = true) {f : Failure} (h : e = .error f) :
    answerIf ok s (respond result e) = fails s f := by
  rw [answerIf_of hok, h]
  rfl

end Respond

theorem cursorOk_of_le {p : Bytes} {cur : Nat} (hp : p.length ≤ 223) (hcur : cur ≤ p.length) : cursorOk p cur = true :=
  Bool.and_eq_true_iff.2 ⟨payloadOk_of_length hp, decide_eq_true hcur⟩

theorem getElem?_eq_some_getD {p : Bytes} {k : Nat} (h : k < p.length) : p[k]? = some (p.getD k 0) := by
  rw [List.getElem?_eq_getElem h, List.getD_eq_getElem _ _ h]

/-! ## Reads at the cursor -/

/-- MemRead's number is the one the rules read at the cursor (R31, R33). -/
theorem memRead_eq_numberAt {p : Bytes} {cur n : Nat} (h : cur + n ≤ p.length) :
    memRead p cur n = numberAt p cur n := by
  induction n generalizing cur with
  | zero => rfl
  | succ n ih =>
    have hcur : cur < p.length := by omega
    have hbyte : p.getD cur 0 = p[cur] := List.getD_eq_getElem p 0 hcur
    have hrest : memRead p (cur + 1) n = numberAt p (cur + 1) n := ih (by omega)
    rw [numberAt, byteNat, hbyte, ← hrest, memRead, slice, List.drop_eq_getElem_cons hcur, List.take_succ_cons]
    rfl

theorem readAt_of_fits {p : Bytes} {cur n : Nat} (h : cur + n ≤ p.length) :
    readAt p cur n = .ok (numberAt p cur n, cur + n) := by
  rw [readAt, if_neg (Nat.not_lt.2 h), memRead_eq_numberAt h]

theorem readAt_pastEnd {p : Bytes} {cur n : Nat} (h : p.length < cur + n) : readAt p cur n = .error .pastEnd :=
  if_pos h

/-- Settles O45: each read is `readAt` of its width, on either side of the payload's end. -/
theorem cursorReads : Obligations.CursorReads := by
  unfold Obligations.CursorReads
  intro p cur s hp hcur
  have hok := cursorOk_of_le hp hcur
  refine ⟨fun h => ?u8, fun h => ?u8PastEnd, fun h => ?u16, fun h => ?u16PastEnd, fun h => ?u32, fun h => ?u32PastEnd⟩
  case u8 | u16 | u32 => exact answerIf_respond_ok hok (readAt_of_fits h)
  case u8PastEnd | u16PastEnd | u32PastEnd => exact answerIf_respond_error hok (readAt_pastEnd h)

/-! ## Writes at the cursor -/

/-- The bits of a value above its n bytes are not written (R34). -/
theorem leBytes_mod (n v : Nat) : leBytes n (v % 256 ^ n) = leBytes n v := by
  induction n generalizing v with
  | zero => rfl
  | succ n ih =>
    have hlow : BitVec.ofNat 8 (v % (256 * 256 ^ n)) = BitVec.ofNat 8 v := by
      apply BitVec.eq_of_toNat_eq
      rw [BitVec.toNat_ofNat, BitVec.toNat_ofNat]
      exact Nat.mod_mod_of_dvd v (Nat.dvd_mul_right 256 _)
    rw [Nat.pow_succ', leBytes, leBytes, hlow, Nat.mod_mul_right_div_self, ih]

theorem byteNat_eq_of_getElem? {p q : Bytes} {j k : Nat} (h : p[j]? = q[k]?) : byteNat p j = byteNat q k := by
  rw [byteNat, byteNat, List.getD_eq_getElem?_getD, List.getD_eq_getElem?_getD, h]

theorem byteNat_leBytes {n v k : Nat} (h : k < n) : byteNat (leBytes n v) k = v / 256 ^ k % 256 := by
  rw [byteNat, List.getD_eq_getElem?_getD, leBytes_getElem? n v k h, Option.getD_some, BitVec.toNat_ofNat]

theorem writtenOver_memWrite {p : Bytes} {cur n : Nat} (h : cur + n ≤ p.length) (v : Nat) :
    WrittenOver p (memWrite p cur n v) cur n v := by
  refine ⟨memWrite_length p cur n v h, fun k _ => ?_⟩
  have hbytes := overwrite_getElem? p cur (leBytes n v) (by rwa [leBytes_length]) k
  rw [leBytes_length, ← memWrite] at hbytes
  split at hbytes
  next hin => rw [if_pos hin, byteNat_eq_of_getElem? hbytes, byteNat_leBytes (by omega)]
  next hout => rw [if_neg hout, byteNat_eq_of_getElem? hbytes]

theorem writeAt_of_fits {p : Bytes} {cur n : Nat} (h : cur + n ≤ p.length) (v : Nat) :
    writeAt p cur n v = .ok (memWrite p cur n v, cur + n) :=
  if_neg (Nat.not_lt.2 h)

theorem writeAt_pastEnd {p : Bytes} {cur n : Nat} (h : p.length < cur + n) (v : Nat) :
    writeAt p cur n v = .error .pastEnd :=
  if_pos h

/-- WRITE_U24's mask drops what three bytes have no room for (R148). -/
theorem memWrite_and_24 (p : Bytes) (cur : Nat) (v : BitVec 32) :
    memWrite p cur 3 (v &&& 0xFFFFFF#32).toNat = memWrite p cur 3 v.toNat := by
  have hmask : (v &&& 0xFFFFFF#32).toNat = v.toNat % 256 ^ 3 := Nat.and_two_pow_sub_one_eq_mod v.toNat 24
  rw [memWrite, memWrite, hmask, leBytes_mod]

/-- Settles O49: each write is `writeAt` of its width, on either side of the payload's end. -/
theorem cursorWrites : Obligations.CursorWrites := by
  unfold Obligations.CursorWrites
  intro p cur s hp hcur
  have hok := cursorOk_of_le hp hcur
  refine ⟨fun v => ⟨fun h => ?u8, fun h => ?u8PastEnd⟩, fun v => ⟨fun h => ?u16, fun h => ?u16PastEnd⟩,
    fun v => ⟨fun h => ?u24, fun h => ?u24PastEnd⟩⟩
  case u8 | u16 => exact ⟨_, answerIf_respond_ok hok (writeAt_of_fits h _), writtenOver_memWrite h _⟩
  case u24 =>
    refine ⟨_, answerIf_respond_ok hok (writeAt_of_fits h _), ?_⟩
    rw [memWrite_and_24]
    exact writtenOver_memWrite h _
  case u8PastEnd | u16PastEnd | u24PastEnd => exact answerIf_respond_error hok (writeAt_pastEnd h _)

/-! ## Reading back -/

/-- A number is read where its base-256 digits stand. -/
theorem numberAt_of_digits {q : Bytes} {cur n v : Nat} (h : ∀ k < n, byteNat q (cur + k) = v / 256 ^ k % 256) :
    numberAt q cur n = v % 256 ^ n := by
  induction n generalizing cur v with
  | zero => rw [numberAt, Nat.pow_zero, Nat.mod_one]
  | succ n ih =>
    have hfirst : byteNat q cur = v % 256 := by simpa using h 0 n.succ_pos
    have hrest : numberAt q (cur + 1) n = v / 256 % 256 ^ n := by
      refine ih fun k hk => ?_
      rw [Nat.add_assoc, Nat.add_comm 1, h (k + 1) (Nat.succ_lt_succ hk), Nat.pow_succ', Nat.div_div_eq_div_mul]
    rw [numberAt, hfirst, hrest, Nat.pow_succ', Nat.mod_mul]

theorem byteNat_of_writtenOver {p q : Bytes} {cur n v : Nat} (h : WrittenOver p q cur n v)
    (hfits : cur + n ≤ p.length) {k : Nat} (hk : k < n) : byteNat q (cur + k) = v / 256 ^ k % 256 := by
  obtain ⟨_, hbytes⟩ := h
  rw [hbytes (cur + k) (by omega), if_pos (by omega), Nat.add_sub_cancel_left]

theorem ofNat_mod_two_pow (w n : Nat) : BitVec.ofNat w (n % 2 ^ w) = BitVec.ofNat w n :=
  BitVec.eq_of_toNat_eq (by rw [BitVec.toNat_ofNat, BitVec.toNat_ofNat, Nat.mod_mod])

/-- READ_U8 gives the byte that a number's digit was written to. -/
theorem exec_readU8_of_byteNat {q : Bytes} {k x : Nat} (hq : q.length ≤ 223) (hk : k < q.length)
    (h : byteNat q k = x % 256) (s : State) :
    exec (.readU8 q k) s = answers s (.readU8 (BitVec.ofNat 8 x) (k + 1)) := by
  obtain ⟨hread, -⟩ := cursorReads q k s hq hk.le
  have hdigit : numberAt q k 1 = x % 2 ^ 8 := h
  rw [hread hk, hdigit, ofNat_mod_two_pow]

theorem exec_readU16_of_numberAt {q : Bytes} {cur x : Nat} (hq : q.length ≤ 223) (hfits : cur + 2 ≤ q.length)
    (h : numberAt q cur 2 = x % 256 ^ 2) (s : State) :
    exec (.readU16 q cur) s = answers s (.readU16 (BitVec.ofNat 16 x) (cur + 2)) := by
  obtain ⟨-, -, hread, -⟩ := cursorReads q cur s hq (by omega)
  have hnumber : numberAt q cur 2 = x % 2 ^ 16 := h
  rw [hread hfits, hnumber, ofNat_mod_two_pow]

/-- Settles O50: the bytes that `cursorWrites` fixes are the digits that `cursorReads` reads. -/
theorem readAfterWrite : Obligations.ReadAfterWrite := by
  unfold Obligations.ReadAfterWrite
  intro p cur s hp
  refine ⟨fun v h => ?u8, fun v h => ?u16, fun v h => ?u24⟩
  case u8 =>
    obtain ⟨hwrite, -, -⟩ := cursorWrites p cur s hp (by omega)
    obtain ⟨q, hexec, hq⟩ := (hwrite v).1 h
    have hlen : q.length = p.length := hq.1
    have hread := exec_readU8_of_byteNat (by omega) (by omega) (byteNat_of_writtenOver hq h Nat.zero_lt_one) s
    rw [Nat.pow_zero, Nat.div_one, BitVec.ofNat_toNat, BitVec.setWidth_eq] at hread
    exact ⟨q, hexec, hread⟩
  case u16 =>
    obtain ⟨-, hwrite, -⟩ := cursorWrites p cur s hp (by omega)
    obtain ⟨q, hexec, hq⟩ := (hwrite v).1 h
    have hlen : q.length = p.length := hq.1
    have hnumber := numberAt_of_digits fun k hk => byteNat_of_writtenOver hq h hk
    have hread := exec_readU16_of_numberAt (by omega) (by omega) hnumber s
    rw [BitVec.ofNat_toNat, BitVec.setWidth_eq] at hread
    exact ⟨q, hexec, hread⟩
  case u24 =>
    obtain ⟨-, -, hwrite⟩ := cursorWrites p cur s hp (by omega)
    obtain ⟨q, hexec, hq⟩ := (hwrite v).1 h
    have hlen : q.length = p.length := hq.1
    have hread (k : Nat) (hk : k < 3) :=
      exec_readU8_of_byteNat (by omega) (by omega) (byteNat_of_writtenOver hq h hk) s
    have hfirst := hread 0 (by decide)
    rw [Nat.pow_zero, Nat.div_one] at hfirst
    exact ⟨q, hexec, hfirst, hread 1 (by decide), hread 2 (by decide)⟩

end Sys2Proof.Proofs

/-! # Text, bits of a byte and repeated records (45_cursor_primitives.md R143 to R145)

The bounded text, SPLIT_BITS as an extraction, and the loop of READ_REPEATED as the list of the sub-records that fit. -/

namespace Sys2Proof.Proofs
open Sys2Proof Sys2Proof.Machine Sys2Proof.Spec

/-! ## READ_VAR_STRING -/

theorem readVarString_missing (cfg : Config) {p : Bytes} {cur : Nat} (h : p.length ≤ cur) :
    readVarString cfg p cur = .error .pastEnd := by
  rw [readVarString, List.getElem?_eq_none h]

/-- The field's body is what its length byte announces and the payload has; STR_MAX bounds what is kept of it (D26). -/
theorem readVarString_of_lengthByte (cfg : Config) {p : Bytes} {cur : Nat} (h : cur < p.length) :
    readVarString cfg p cur =
      .ok (slice p (cur + 1) (min (min (byteNat p cur) (p.length - (cur + 1))) cfg.strMax),
        cur + 1 + min (byteNat p cur) (p.length - (cur + 1))) := by
  rw [readVarString, getElem?_eq_some_getD h]
  rfl

theorem slice_getElem? {p : Bytes} {addr n k : Nat} (h : k < n) : (slice p addr n)[k]? = p[addr + k]? := by
  rw [slice, List.getElem?_take_of_lt h, List.getElem?_drop]

/-- Settles O46: `readVarString_of_lengthByte`, its bounds as lengths. -/
theorem varStringBounded : Obligations.VarStringBounded := by
  unfold Obligations.VarStringBounded
  intro p cur s hp hcur
  have hok := cursorOk_of_le hp hcur
  refine ⟨fun h => answerIf_respond_error hok (readVarString_missing _ h.le), fun h => ?_⟩
  refine ⟨_, _, answerIf_respond_ok hok (readVarString_of_lengthByte _ h), by omega, ?length, fun k hk => ?text⟩
  case length =>
    rw [slice_length]
    omega
  case text =>
    rw [slice_length] at hk
    exact slice_getElem? (hk.trans_le (Nat.min_le_left _ _))

/-! ## SPLIT_BITS -/

theorem splitBits_getLsbD (b : Byte) {lo width : Nat} (h : lo + width ≤ 8) (i : Nat) :
    (splitBits b lo width).getLsbD i = (decide (i < width) && b.getLsbD (lo + i)) :=
  chunk_getLsbD b lo width i h

theorem pbit_singleton (b : Byte) (k : Nat) : pbit [b] k = b.getLsbD k := by
  rw [pbit_cons, pbit_nil]
  split
  next => rfl
  next hk => rw [BitVec.getLsbD_of_ge b k (Nat.le_of_not_lt hk)]

theorem extractRaw_singleton (b : Byte) {lo width : Nat} (h : lo + width ≤ 8) :
    extractRaw [b] lo width = (splitBits b lo width).setWidth 64 := by
  apply BitVec.eq_of_getLsbD_eq
  intro i hi
  rw [extractRaw_getLsbD [b] lo width hi, pbit_singleton, BitVec.getLsbD_setWidth, splitBits_getLsbD b h,
    decide_eq_true hi, Bool.true_and]

/-- Settles O47: bit by bit, by `splitBits_getLsbD` and `extractRaw_singleton`. -/
theorem splitBitsIsExtraction : Obligations.SplitBitsIsExtraction := by
  unfold Obligations.SplitBitsIsExtraction
  intro b lo width s hwidth hfits
  have hok : splitOk lo width = true := Bool.and_eq_true_iff.2 ⟨decide_eq_true hwidth, decide_eq_true hfits⟩
  refine ⟨splitBits b lo width, answerIf_of hok, fun i _ => splitBits_getLsbD b hfits i, ?_⟩
  have hlo : (BitVec.ofNat 32 lo).toNat = lo := by
    rw [BitVec.toNat_ofNat]
    omega
  rw [exec_extractRaw (BitVec.ofNat 32 lo) s (p := [b]) (show 1 ≤ 223 by decide) ⟨hwidth, by omega⟩, hlo,
    extractRaw_singleton b hfits]

/-! ## INDEX_NAME (D27) -/

theorem decimalFuel_eq_digits {fuel n : Nat} (hpos : 0 < n) (hfuel : n < 10 ^ (fuel + 1)) (acc : Text) :
    decimalFuel fuel n acc = ((Nat.digits 10 n).reverse.map fun d => BitVec.ofNat 8 (48 + d)) ++ acc := by
  induction fuel generalizing n acc with
  | zero =>
    have hlt : n < 10 := hfuel
    rw [decimalFuel, Nat.digits_of_lt 10 n hpos.ne' hlt, Nat.mod_eq_of_lt hlt]
    rfl
  | succ fuel ih =>
    rw [decimalFuel]
    split
    next hlt =>
      rw [Nat.digits_of_lt 10 n hpos.ne' hlt, Nat.mod_eq_of_lt hlt]
      rfl
    next hge =>
      have hdiv : n / 10 < 10 ^ (fuel + 1) := by
        rw [Nat.pow_succ] at hfuel
        exact Nat.div_lt_of_lt_mul (Nat.mul_comm _ _ ▸ hfuel)
      rw [ih (Nat.div_pos (Nat.le_of_not_lt hge) (by decide)) hdiv, Nat.digits_def' (by decide) hpos,
        List.reverse_cons, List.map_append, List.append_assoc]
      rfl

theorem decimal_eq_digits {n : Nat} (h : 0 < n) :
    decimal n = (Nat.digits 10 n).reverse.map fun d => BitVec.ofNat 8 (48 + d) := by
  have hfuel : n < 10 ^ (n.log2 + 1) :=
    Nat.lt_log2_self.trans_le (Nat.pow_le_pow_left (by decide) _)
  rw [decimal, decimalFuel_eq_digits h hfuel, List.append_nil]

/-! ## READ_REPEATED -/

/-- How many of the announced sub-records the payload has room for from `c` on (D27). -/
def fitting (p : Bytes) (size left c : Nat) : Nat :=
  min left ((p.length - c) / size)

section Fitting

variable {p : Bytes} {size left c : Nat}

theorem fitting_of_fits (hsize : 1 ≤ size) (h : c + size ≤ p.length) :
    fitting p size (left + 1) c = fitting p size left (c + size) + 1 := by
  have hroom : (p.length - c) / size = (p.length - (c + size)) / size + 1 := by
    rw [Nat.div_eq_sub_div hsize (by omega), Nat.sub_sub]
  rw [fitting, fitting, hroom, Nat.add_min_add_right]

theorem fitting_of_not_fits (hc : c ≤ p.length) (h : ¬ c + size ≤ p.length) : fitting p size left c = 0 := by
  rw [fitting, Nat.div_eq_of_lt (by omega), Nat.min_zero]

end Fitting

/-- The records of the n sub-records from `c` on, the first of which is the i-th. -/
def recordsFrom (cfg : Config) (p : Bytes) (size : Nat) (fields : List SignalDef) (i c n : Nat) :
    List (List DecodedSignal) :=
  (List.range n).map fun j => decodeRecord cfg (slice p (c + j * size) size) fields (i + j)

section RecordsFrom

variable (cfg : Config) (p : Bytes) (size : Nat) (fields : List SignalDef) (i c n : Nat)

theorem recordsFrom_length : (recordsFrom cfg p size fields i c n).length = n := by
  rw [recordsFrom, List.length_map, List.length_range]

theorem recordsFrom_succ :
    recordsFrom cfg p size fields i c (n + 1) =
      decodeRecord cfg (slice p c size) fields i :: recordsFrom cfg p size fields (i + 1) (c + size) n := by
  have hcursor (j : Nat) : c + (j + 1) * size = c + size + j * size := by
    rw [Nat.succ_mul]
    omega
  have hindex (j : Nat) : i + (j + 1) = i + 1 + j := by omega
  rw [recordsFrom, recordsFrom, List.range_succ_eq_map, List.map_cons, List.map_map, Nat.zero_mul]
  refine congrArg (decodeRecord cfg (slice p c size) fields i :: ·) (List.map_congr_left fun j _ => ?_)
  rw [Function.comp_apply, Nat.succ_eq_add_one, hcursor, hindex]

variable {cfg p size fields i c n}

theorem recordsFrom_getElem? {j : Nat} {sigs : List DecodedSignal}
    (h : (recordsFrom cfg p size fields i c n)[j]? = some sigs) :
    sigs = decodeRecord cfg (slice p (c + j * size) size) fields (i + j) := by
  rw [recordsFrom, List.getElem?_map, Option.map_eq_some_iff] at h
  obtain ⟨k, hk, hsigs⟩ := h
  obtain ⟨_, rfl⟩ := List.getElem?_eq_some_iff.1 hk
  rw [← hsigs, List.getElem_range]

end RecordsFrom

/-- The loop reads the sub-records that fit, one after another, and leaves the cursor after the last one (D27). -/
theorem readRecords_eq (cfg : Config) (fields : List SignalDef) {p : Bytes} {size : Nat} (hsize : 1 ≤ size)
    (left i : Nat) {c : Nat} (hc : c ≤ p.length) :
    readRecords cfg p size fields left i c =
      (recordsFrom cfg p size fields i c (fitting p size left c), c + fitting p size left c * size) := by
  induction left generalizing i c with
  | zero =>
    rw [fitting, Nat.zero_min, Nat.zero_mul]
    rfl
  | succ left ih =>
    rw [readRecords]
    split
    next h =>
      rw [ih (i + 1) h, fitting_of_fits hsize h, recordsFrom_succ, Nat.succ_mul, Nat.add_assoc,
        Nat.add_comm size]
    next h =>
      rw [fitting_of_not_fits hc h, Nat.zero_mul]
      rfl

theorem readRepeated_missing (cfg : Config) {p : Bytes} {cur : Nat} (h : p.length ≤ cur) (size : Nat)
    (fields : List SignalDef) : readRepeated cfg p cur size fields = .error .pastEnd := by
  rw [readRepeated, List.getElem?_eq_none h]

theorem readRepeated_of_count (cfg : Config) {p : Bytes} {cur size : Nat} (hsize : 1 ≤ size) (h : cur < p.length)
    (fields : List SignalDef) :
    readRepeated cfg p cur size fields =
      .ok (p.getD cur 0, recordsFrom cfg p size fields 0 (cur + 1) (fitting p size (byteNat p cur) (cur + 1)),
        cur + 1 + fitting p size (byteNat p cur) (cur + 1) * size) := by
  rw [readRepeated, getElem?_eq_some_getD h, ← readRecords_eq cfg fields hsize (byteNat p cur) 0 h]
  rfl

theorem decodeSignal_name {cfg : Config} {p : Bytes} {sd : SignalDef} {ds : DecodedSignal}
    (h : decodeSignal cfg p sd = .ok ds) : ds.name = sd.name := by
  rcases Nat.lt_or_ge (8 * p.length) (sd.startBit.toNat + sd.bitLength) with hbeyond | hfits
  · exact Except.noConfusion rfl rfl (heq_of_eq ((decodeSignal_of_beyond hbeyond).symm.trans h))
  · rw [← Except.ok.inj ((decodeSignal_of_fits hfits).symm.trans h)]
    split <;> rfl

theorem decodeRecord_getElem? (cfg : Config) (r : Bytes) {fields : List SignalDef} (i : Nat) {k : Nat} {sd : SignalDef}
    (hsd : fields[k]? = some sd) :
    (decodeRecord cfg r fields i)[k]? = some { decodeFolded cfg r sd with name := cfg.indexName sd.name i } := by
  rw [decodeRecord, List.getElem?_map, hsd]
  rfl

/-- A signal of a sub-record: as DECODE_SIGNAL decodes it but for the name, or not available where it fails (R145). -/
theorem decodeRecord_cases (cfg : Config) (r : Bytes) {fields : List SignalDef} (i : Nat) {k : Nat} {sd : SignalDef}
    {ds : DecodedSignal} (hsd : fields[k]? = some sd) (hds : (decodeRecord cfg r fields i)[k]? = some ds) :
    ds.name = cfg.indexName sd.name i ∧
      (decodeSignal cfg r sd = .ok { ds with name := sd.name } ∨
        (decodeSignal cfg r sd = .error .bitRangeExceedsPayload ∧
          ds = ⟨cfg.indexName sd.name i, sd.unit, .notAvailable, false⟩)) := by
  obtain rfl := Option.some.inj ((decodeRecord_getElem? cfg r i hsd).symm.trans hds)
  refine ⟨rfl, ?_⟩
  rcases decodeFolded_cases cfg r sd with hok | ⟨herror, hfolded⟩
  · left
    rw [hok, ← decodeSignal_name hok]
  · right
    rw [hfolded]
    exact ⟨herror, rfl⟩

theorem repeatedOk_of {p : Bytes} {cur size : Nat} {fields : List SignalDef} (hcur : cursorOk p cur = true)
    (hsize : 1 ≤ size) (hfields : ∀ sd ∈ fields, signalDefOk sd = true) : repeatedOk p cur size fields = true := by
  rw [repeatedOk, hcur, decide_eq_true hsize, List.all_eq_true.2 hfields]
  rfl

/-- Settles O48: the loop by `readRecords_eq`, each signal by `decodeRecord_cases`. -/
theorem readRepeatedRecords : Obligations.ReadRepeatedRecords := by
  unfold Obligations.ReadRepeatedRecords
  refine ⟨fun base i => congrArg (base ++ 0x5F :: ·) (decimal_eq_digits i.succ_pos), ?machine, ?records⟩
  case machine =>
    intro p cur size fields s hp hcur hsize hfields
    have hok := repeatedOk_of (cursorOk_of_le hp hcur) hsize hfields
    refine ⟨fun h => answerIf_respond_error hok (readRepeated_missing _ h.le size fields), fun h => ?_⟩
    have hread := readRepeated_of_count Config.current hsize h fields
    exact ⟨_, _, _, hread, answerIf_respond_ok hok hread⟩
  case records =>
    intro cfg p cur size fields hsize h
    refine ⟨_, _, readRepeated_of_count cfg hsize h fields, ?_, ?_, fun i sigs hsigs => ?_⟩
    · rw [recordsFrom_length, fitting, Nat.sub_sub]
    · rw [recordsFrom_length]
    · obtain rfl := recordsFrom_getElem? hsigs
      rw [Nat.zero_add]
      exact ⟨List.length_map _, fun k sd ds hsd hds => decodeRecord_cases cfg _ i hsd hds⟩

end Sys2Proof.Proofs

/-! # The detector's operations (46_instance_conflict.md)

What each operation answers: OBSERVE as an upsert, RECOMPUTE_CONFLICTS as the grouping of the records, the queries as
filters of CONF. -/

namespace Sys2Proof.Proofs
open Sys2Proof Sys2Proof.Machine Sys2Proof.Spec

/-! ## OBSERVE (R155, R162) -/

section Observe

variable {cfg : Config} {m : Message} {now : Timestamp} {s : State}

theorem instanceOffset_engine (cfg : Config) : cfg.instanceOffset 127508 = some 0 :=
  if_pos rfl

/-- An instance stands in byte 0 or in byte 1 (R162). -/
theorem instanceOffset_le_one {g : Pgn} {off : Nat} (h : cfg.instanceOffset g = some off) : off ≤ 1 := by
  rw [Config.instanceOffset] at h
  split at h
  next => cases h; exact Nat.zero_le 1
  next =>
    obtain ⟨e, _, rfl⟩ := Option.map_eq_some_iff.1 h
    split
    · exact Nat.le_refl 1
    · exact Nat.zero_le 1

theorem observedInstance_of_not_listed (h : cfg.instanceOffset m.pgn = none) : observedInstance cfg m = none := by
  rw [observedInstance_eq_bind, h, Option.bind_none]

theorem observedInstance_of_offset {off : Nat} (h : cfg.instanceOffset m.pgn = some off) :
    observedInstance cfg m = m.payload[off]? := by
  rw [observedInstance_eq_bind, h, Option.bind_some]

/-- The record that OBSERVE binds for a message with this instance (R155). -/
def recordOf (m : Message) (inst : Byte) (now : Timestamp) : InstanceRecord :=
  { pgn := m.pgn, source := m.source, inst := inst, lastSeen := now }

theorem observed_of_instance {inst : Byte} (h : observedInstance cfg m = some inst) :
    observed cfg m now s = s.withDetector (recUpsert (recordOf m inst now) s.recs)
      (conflicts (recUpsert (recordOf m inst now) s.recs)) := by
  rw [observed, h]
  rfl

theorem observe_of_no_instance (h : observedInstance cfg m = none) :
    observe cfg m now s = answers s (.updated false) := by
  rw [observe, observed, h]
  rfl

theorem observe_of_instance {inst : Byte} (h : observedInstance cfg m = some inst) :
    observe cfg m now s = answers (s.withDetector (recUpsert (recordOf m inst now) s.recs)
      (conflicts (recUpsert (recordOf m inst now) s.recs))) (.updated true) := by
  rw [observe, observed_of_instance h, h]
  rfl

end Observe

/-- Settles O51: whether the message carries an instance decides between an upsert and no change. -/
theorem observeUpserts : Obligations.ObserveUpserts := by
  unfold Obligations.ObserveUpserts
  refine ⟨fun m now s hm => if_pos hm, instanceOffset_engine, fun cfg m now s => ⟨fun hnone => ?notListed,
    fun off hoff => ⟨instanceOffset_le_one hoff, fun hshort => ?short, fun hlong => ?counts⟩⟩⟩
  case notListed => exact observe_of_no_instance (observedInstance_of_not_listed hnone)
  case short =>
    exact observe_of_no_instance ((observedInstance_of_offset hoff).trans (List.getElem?_eq_none hshort))
  case counts =>
    have hinst : observedInstance cfg m = some (m.payload.getD off 0) :=
      (observedInstance_of_offset hoff).trans (getElem?_eq_some_getD hlong)
    refine ⟨_, observe_of_instance hinst, ?_, fun g a hkey => ?_⟩
    · exact (recLookup_recUpsert _ _ _ _).trans (if_pos ⟨rfl, rfl⟩)
    · have hother : ¬ (m.pgn = g ∧ m.source = a) := fun ⟨hg, ha⟩ => hkey (by rw [hg, ha])
      exact (recLookup_recUpsert _ _ _ _).trans (if_neg hother)

/-! ## RECOMPUTE_CONFLICTS (R156, R160) -/

section Conflicts

variable {recs : List InstanceRecord}

/-- `recKey` lists the pairs in their lexicographic order (log entry 11). -/
theorem recKey_lt_iff {g g' : Pgn} {a a' : Byte} : recKey g a < recKey g' a' ↔ g < g' ∨ (g = g' ∧ a < a') := by
  have ha := a.isLt
  have ha' := a'.isLt
  rw [BitVec.lt_def, BitVec.lt_def, ← BitVec.toNat_inj, recKey, recKey]
  omega

theorem sourcesOf_pairwise (recs : List InstanceRecord) (g : Pgn) (i : Byte) :
    (sourcesOf recs g i).Pairwise (· < ·) :=
  toAsc_pairwise byte_toNat_inj _

/-- Two records of one group with different sources make the group a conflict. -/
theorem one_lt_length_sourcesOf {r q : InstanceRecord} (hr : r ∈ recs) (hq : q ∈ recs) (hpgn : r.pgn = q.pgn)
    (hinst : r.inst = q.inst) (hsource : r.source ≠ q.source) : 1 < (sourcesOf recs r.pgn r.inst).length := by
  have hrmem : r.source ∈ sourcesOf recs r.pgn r.inst := mem_sourcesOf.2 ⟨r, hr, rfl, rfl, rfl⟩
  have hqmem : q.source ∈ sourcesOf recs r.pgn r.inst := mem_sourcesOf.2 ⟨q, hq, hpgn.symm, hinst.symm, rfl⟩
  calc 1 < (sourcesOf recs r.pgn r.inst).toFinset.card :=
        Finset.one_lt_card.2 ⟨_, List.mem_toFinset.2 hrmem, _, List.mem_toFinset.2 hqmem, hsource⟩
    _ ≤ (sourcesOf recs r.pgn r.inst).length := List.toFinset_card_le _

theorem groupConflict_eq_some {g : Pgn × Byte} {c : InstanceConflict} (h : groupConflict recs g = some c) :
    (c.pgn, c.inst) = g := by
  obtain ⟨_, hc⟩ := Option.ite_none_right_eq_some.1 h
  rw [← Option.some.inj hc]

/-- The groups ascend, and each gives at most one conflict. -/
theorem conflicts_pairwise (recs : List InstanceRecord) :
    (conflicts recs).Pairwise (fun c d => c.pgn < d.pgn ∨ (c.pgn = d.pgn ∧ c.inst < d.inst)) := by
  refine List.Pairwise.filterMap (groupConflict recs) (fun g h hlt c hc d hd => ?_)
    (toAsc_pairwise group_key_inj _)
  cases groupConflict_eq_some hc
  cases groupConflict_eq_some hd
  exact recKey_lt_iff.1 hlt

theorem mem_csrc {conf : List InstanceConflict} {a : Byte} : a ∈ csrc conf ↔ ∃ c ∈ conf, a ∈ c.sources :=
  (mem_toAsc byte_toNat_inj a _).trans List.mem_flatMap

theorem csrc_pairwise (conf : List InstanceConflict) : (csrc conf).Pairwise (· < ·) :=
  toAsc_pairwise byte_toNat_inj _

end Conflicts

theorem nodup_of_pairwise_lt {xs : List Byte} (h : xs.Pairwise (· < ·)) : xs.Nodup :=
  h.imp BitVec.ne_of_lt

theorem exec_recomputeConflicts (s : State) :
    exec .recomputeConflicts s = answers (s.withDetector s.recs (conflicts s.recs))
      (.conflictReport (conflicts s.recs) (csrc (conflicts s.recs))) :=
  rfl

/-- Settles O52: a conflict is a group with its sources (`mem_conflicts`), and the order of the listing leaves no
repeats. -/
theorem recomputeGroupsByInstance : Obligations.RecomputeGroupsByInstance := by
  unfold Obligations.RecomputeGroupsByInstance
  intro s
  refine ⟨_, _, exec_recomputeConflicts s, fun c hc => ?sound, fun r hr q hq hpgn hinst hsource => ?complete, ?once,
    nodup_of_pairwise_lt (csrc_pairwise _), fun a => mem_csrc⟩
  case sound =>
    obtain ⟨hsources, hmany⟩ := mem_conflicts.1 hc
    refine ⟨hmany, ?_⟩
    rw [hsources]
    exact ⟨nodup_of_pairwise_lt (sourcesOf_pairwise _ _ _), fun a => mem_sourcesOf⟩
  case complete =>
    have hmany := one_lt_length_sourcesOf hr hq hpgn hinst hsource
    exact ⟨⟨r.pgn, r.inst, sourcesOf s.recs r.pgn r.inst⟩, mem_conflicts.2 ⟨rfl, hmany⟩, rfl, rfl⟩
  case once =>
    refine (conflicts_pairwise s.recs).imp fun hlt ⟨hpgn, hinst⟩ => ?_
    rcases hlt with hlt | ⟨_, hlt⟩
    · exact BitVec.ne_of_lt hlt hpgn
    · exact BitVec.ne_of_lt hlt hinst

/-- Settles O53: each list is made ascending (`toAsc_pairwise`), and the conflicts follow their groups. -/
theorem conflictsListedAscending : Obligations.ConflictsListedAscending := by
  unfold Obligations.ConflictsListedAscending
  intro s
  refine ⟨_, _, exec_recomputeConflicts s, conflicts_pairwise s.recs, fun c hc => ?_, csrc_pairwise _⟩
  rw [(mem_conflicts.1 hc).1]
  exact sourcesOf_pairwise _ _ _

/-- Settles O54: in a consistent state CONF is already conflicts(REC), so writing it back changes nothing. -/
theorem recomputeIsIdempotent : Obligations.RecomputeIsIdempotent := by
  unfold Obligations.RecomputeIsIdempotent
  intro s hs
  refine ⟨csrc s.conf, ?_⟩
  rw [exec_recomputeConflicts, ← (consistent_iff.1 hs).2]
  rfl

/-! ## CLEAR and the queries (R157 to R159) -/

/-- Settles O55: CLEAR answers on the state with the empty detector. -/
theorem clearEmptiesDetector : Obligations.ClearEmptiesDetector := by
  unfold Obligations.ClearEmptiesDetector
  exact fun s => rfl

theorem exec_hasConflict (a : Byte) (s : State) :
    ∃ b : Bool, exec (.hasConflict a) s = answers s (.hasConflict b) ∧ (b = true ↔ ∃ c ∈ s.conf, a ∈ c.sources) := by
  refine ⟨_, rfl, ?_⟩
  simp only [List.any_eq_true, List.contains_iff_mem]

theorem exec_conflictsForPgn (g : Pgn) (s : State) :
    ∃ cs : List InstanceConflict, exec (.conflictsForPgn g) s = answers s (.conflicts cs) ∧
      List.Sublist cs s.conf ∧ ∀ c, c ∈ cs ↔ c ∈ s.conf ∧ c.pgn = g := by
  refine ⟨_, rfl, List.filter_sublist, fun c => ?_⟩
  rw [List.mem_filter, beq_iff_eq]

/-- An operation's results are determined by its outcome. -/
theorem answers_inj {s : State} {r r' : Result} (h : answers s r = answers s r') : r = r' := by
  cases h
  rfl

/-- Settles O56: `exec_hasConflict`, and in a consistent state CONF is conflicts(REC). -/
theorem hasConflictIsMembership : Obligations.HasConflictIsMembership := by
  unfold Obligations.HasConflictIsMembership
  intro a s
  obtain ⟨b, hexec, hb⟩ := exec_hasConflict a s
  refine ⟨b, hexec, hb, fun hs => ?_⟩
  rw [hb, ← (consistent_iff.1 hs).2, mem_csrc]

/-- Settles O57: a conflict of CONF stands in the answer for its own PGN. -/
theorem conflictQueries : Obligations.ConflictQueries := by
  unfold Obligations.ConflictQueries
  refine ⟨exec_conflictsForPgn, fun a s => ?_⟩
  obtain ⟨b, hexec, hb⟩ := exec_hasConflict a s
  refine ⟨b, hexec, hb.trans ⟨?inSomeAnswer, ?inConf⟩⟩
  case inSomeAnswer =>
    rintro ⟨c, hc, ha⟩
    obtain ⟨cs, hcs, _, hmem⟩ := exec_conflictsForPgn c.pgn s
    exact ⟨c.pgn, cs, hcs, c, (hmem c).2 ⟨hc, rfl⟩, ha⟩
  case inConf =>
    rintro ⟨g, cs, hcs, c, hc, ha⟩
    obtain ⟨cs', hcs', _, hmem⟩ := exec_conflictsForPgn g s
    cases answers_inj (hcs.symm.trans hcs')
    exact ⟨c, ((hmem c).1 hc).1, ha⟩

/-! ## Records persist (R161) -/

/-- All that an operation other than CLEAR can do to REC. -/
theorem recs_of_exec {i : Instr} {s t : State} (h : exec i s = .next t) (hclear : i ≠ .clear) :
    t.recs = s.recs ∨ ∃ r, t.recs = recUpsert r s.recs := by
  cases hw : writesDetector i with
  | false =>
    obtain ⟨r, rfl⟩ := onlyDetectorOperationsTouchState i s t h hw
    exact .inl rfl
  | true =>
    cases i with
    | observe m now =>
      obtain ⟨_, rfl⟩ := answerIf_next (ok := messageOk m) h
      rw [State.withResponse_recs]
      cases hinst : observedInstance Config.current m with
      | none =>
        left
        rw [observed, hinst]
      | some inst =>
        right
        rw [observed_of_instance hinst]
        exact ⟨_, rfl⟩
    | recomputeConflicts =>
      obtain rfl := answer_eq_next h
      exact .inl rfl
    | clear => exact absurd rfl hclear
    | _ => cases hw

/-- Settles O60: an upsert neither shortens REC nor unbinds a key. -/
theorem recordsPersistUntilClear : Obligations.RecordsPersistUntilClear := by
  unfold Obligations.RecordsPersistUntilClear
  intro i s t h hclear
  rcases recs_of_exec h hclear with hrecs | ⟨r, hrecs⟩
  · rw [hrecs]
    exact ⟨Nat.le_refl _, fun _ _ => id⟩
  · rw [hrecs]
    refine ⟨length_le_recUpsert r s.recs, fun g a hbound => ?_⟩
    rw [recLookup_recUpsert]
    split
    · rfl
    · exact hbound

/-! ## The worked example (R161) -/

section Pair

variable {r q : InstanceRecord}

theorem sourcesOf_pair_of_same_group (hpgn : r.pgn = q.pgn) (hinst : r.inst = q.inst) (hlt : r.source < q.source) :
    sourcesOf [r, q] r.pgn r.inst = [r.source, q.source] := by
  have hlt' : r.source.toNat < q.source.toNat := hlt
  simp [sourcesOf, toAsc, insertAsc, hpgn, hinst, hlt']

theorem groups_pair_of_same_group (hpgn : r.pgn = q.pgn) (hinst : r.inst = q.inst) :
    groups [r, q] = [(r.pgn, r.inst)] := by
  simp [groups, toAsc, insertAsc, hpgn, hinst]

theorem conflicts_pair_of_same_group (hpgn : r.pgn = q.pgn) (hinst : r.inst = q.inst) (hlt : r.source < q.source) :
    conflicts [r, q] = [⟨r.pgn, r.inst, [r.source, q.source]⟩] := by
  rw [conflicts, groups_pair_of_same_group hpgn hinst, List.filterMap_cons, groupConflict,
    sourcesOf_pair_of_same_group hpgn hinst hlt]
  rfl

/-- Each group has at most one of the two records, so it cannot span two sources. -/
theorem conflicts_pair_of_other_instance (hinst : r.inst ≠ q.inst) : conflicts [r, q] = [] := by
  refine List.eq_nil_iff_forall_not_mem.2 fun c hc => ?_
  obtain ⟨hsources, hmany⟩ := mem_conflicts.1 hc
  have hone : c.sources.length ≤ 1 := by
    rw [hsources]
    by_cases hr : r.pgn = c.pgn ∧ r.inst = c.inst
    · have hq : ¬ (q.pgn = c.pgn ∧ q.inst = c.inst) := fun h => hinst (hr.2.trans h.2.symm)
      simp [sourcesOf, toAsc, insertAsc, hr, hq]
    · by_cases hq : q.pgn = c.pgn ∧ q.inst = c.inst
      · simp [sourcesOf, toAsc, insertAsc, hr, hq]
      · simp [sourcesOf, toAsc, hr, hq]
  omega

end Pair

/-- A 127508 message that carries this instance, as the worked example sends it. -/
def engineMessage (source inst : Byte) : Message :=
  ⟨127508, 6, source, 255, [inst, 0xFF], 0⟩

/-- The example's two observations, the second with instance `inst`. -/
def engineObservations (inst : Byte) (t t' : Timestamp) : List Observation :=
  [(engineMessage 0x10 0, t), (engineMessage 0x20 inst, t')]

section Example

variable (t t' : Timestamp)

theorem observed_engineMessage (source inst : Byte) (s : State) :
    (observed Config.current (engineMessage source inst) t s).recs =
      recUpsert ⟨127508, source, inst, t⟩ s.recs := by
  have hinst : observedInstance Config.current (engineMessage source inst) = some inst :=
    observedInstance_of_offset (m := engineMessage source inst) (instanceOffset_engine Config.current)
  rw [observed_of_instance hinst]
  rfl

theorem engineObservations_ok (inst : Byte) : ∀ o ∈ engineObservations inst t t', messageOk o.1 = true :=
  List.forall_mem_cons.2 ⟨rfl, List.forall_mem_cons.2 ⟨rfl, List.forall_mem_nil _⟩⟩

theorem engineObservations_recs (inst : Byte) :
    (observeAll (engineObservations inst t t') State.reset).recs =
      [⟨127508, 0x10, 0, t⟩, ⟨127508, 0x20, inst, t'⟩] := by
  have h : messageOk (engineMessage 0x10 0) = true := rfl
  have h' : messageOk (engineMessage 0x20 inst) = true := rfl
  rw [engineObservations, observeAll_cons h, observeAll_cons h', observeAll, State.withResponse_recs,
    observed_engineMessage, State.withResponse_recs, observed_engineMessage]
  simp [State.reset, recUpsert, keyOf, recKey]

/-- From reset the run ends consistent, so CONF is read off REC. -/
theorem engineObservations_conf (inst : Byte) :
    (observeAll (engineObservations inst t t') State.reset).conf =
      conflicts [⟨127508, 0x10, 0, t⟩, ⟨127508, 0x20, inst, t'⟩] := by
  have hend := observeAll_consistent (engineObservations_ok t t' inst) consistent_reset
  rw [(consistent_iff.1 hend).2, engineObservations_recs]

end Example

/-- Settles O58: two records of one group conflict, and two records of different groups do not. -/
theorem sourceExampleOfConflict : Obligations.SourceExampleOfConflict := by
  unfold Obligations.SourceExampleOfConflict
  intro t t'
  have hsource : (0x10 : Byte) < 0x20 := by decide
  have hinst : (0 : Byte) ≠ 1 := by decide
  exact ⟨(engineObservations_conf t t' 0).trans (conflicts_pair_of_same_group rfl rfl hsource),
    engineObservations_recs t t' 0, (engineObservations_conf t t' 1).trans (conflicts_pair_of_other_instance hinst),
    engineObservations_recs t t' 1⟩

end Sys2Proof.Proofs

/-! # Failures (60_exceptions.md R170 to R173)

The codes of the sub-causes (R171), which failures each operation's own function can end in, and from them what an
instruction reports (R172) and that a failure changes the response alone (R170). -/

namespace Sys2Proof.Proofs
open Sys2Proof Sys2Proof.Machine Sys2Proof.Spec

/-! ## Codes (R171) -/

/-- The failure that a code and the information recorded with it stand for. -/
def failureOfCode (code : Byte) (info : Option Byte) : Option Failure :=
  match code.toNat with
  | 0x10 => some .shortPayload
  | 0x11 => some .shortForType
  | 0x12 => some .pastEnd
  | 0x13 => some .tooManyPairs
  | 0x14 => some .emptyValue
  | 0x15 => some .tooLong
  | 0x16 => some .noParameters
  | 0x20 => some .wrongHeader
  | 0x21 => some .wrongTag
  | 0x22 => some .wrongFunctionCode
  | 0x23 => some .wrongTargetPgn
  | 0x30 => info.map .unknownTag
  | 0x31 => some .noDecoder
  | 0x40 => some .bitRangeExceedsPayload
  | _ => none

/-- The code and the information tell the failure. -/
theorem failureOfCode_code (f : Failure) : failureOfCode f.code f.info = some f := by
  cases f <;> rfl

theorem code_div_sixteen (f : Failure) : f.code.toNat / 16 = f.status.code.toNat := by
  cases f with
  | unknownTag t => exact (rfl : (0x30 : Byte).toNat / 16 = (0x03 : Byte).toNat)
  | _ => rfl

theorem info_eq_some_iff (f : Failure) (b : Byte) : f.info = some b ↔ f = .unknownTag b := by
  cases f with
  | unknownTag t => rw [Failure.info, Option.some.injEq, Failure.unknownTag.injEq]
  | _ => exact iff_of_false nofun nofun

/-- Settles O16: `failureOfCode` reads every failure back, so code and information are injective together. -/
theorem failureCodesIdentifyCauses : Obligations.FailureCodesIdentifyCauses := by
  unfold Obligations.FailureCodesIdentifyCauses
  refine ⟨code_div_sixteen, fun f g hcode hinfo => Option.some.inj ?_, info_eq_some_iff⟩
  rw [← failureOfCode_code f, hcode, hinfo, failureOfCode_code]

/-! ## The failures of each operation's function -/

section Errors

variable {cfg : Config} {p : Bytes} {f : Failure}

theorem getPropId_error (h : getPropId p = .error f) : f = .shortPayload := by
  match p with
  | [] | [_] | [_, _] => cases h; rfl
  | _ :: _ :: _ :: _ => cases h

theorem parseAs_error {t : PropTag} (h : parseAs cfg t p = .error f) :
    f ∈ [.shortPayload, .wrongHeader, .wrongTag, .shortForType] := by
  rcases Nat.lt_or_ge p.length 3 with hshort | hlen
  · rw [parseAs_short hshort] at h
    cases h
    decide
  · rw [parseAs_of_length hlen] at h
    split_ifs at h <;> cases h <;> decide

theorem parseProprietary_error (h : parseProprietary cfg p = .error f) :
    f ∈ [.shortPayload, .wrongHeader, .unknownTag (p.getD 2 0), .shortForType] := by
  match p with
  | [] | [_] | [_, _] => cases h; exact List.mem_cons_self
  | b0 :: b1 :: tag :: rest =>
    cases hheader : headerMatches b0 b1 with
    | false =>
      rw [parseProprietary_wrongHeader hheader] at h
      cases h
      simp
    | true =>
      cases htag : tagOfCode tag with
      | none =>
        rw [parseProprietary_unknownTag hheader htag] at h
        cases h
        simp
      | some t =>
        obtain rfl := tagCode_of_tagOfCode htag
        rw [parseProprietary_tagCode hheader] at h
        split_ifs at h
        cases h
        simp

theorem gfBuildCmd_error {g : Pgn} {prio : Byte} {pairs : List (Byte × Bytes)}
    (h : gfBuildCmd cfg g prio pairs = .error f) : f ∈ [.tooManyPairs, .emptyValue, .tooLong] := by
  rw [gfBuildCmd_eq] at h
  split_ifs at h <;> cases h <;> decide

section ParseAck

variable {expected : Pgn}

/-- A full-length acknowledge can only be about another PGN or without parameters. -/
theorem gfParseAck_error_of_ack (hlen : 7 ≤ p.length) (hack : byteNat p 0 = 2)
    (h : gfParseAck cfg p expected = .error f) : f ∈ [.wrongTargetPgn, .noParameters] := by
  rw [gfParseAck_of_length hlen, if_neg (not_not.2 hack)] at h
  split_ifs at h <;> cases h <;> decide

theorem gfParseAck_error_of_not_ack (hack : byteNat p 0 ≠ 2) (h : gfParseAck cfg p expected = .error f) :
    f ∈ [.shortPayload, .wrongFunctionCode] := by
  rw [gfParseAck_not_ack hack] at h
  split_ifs at h <;> cases h <;> decide

theorem gfParseAck_error (h : gfParseAck cfg p expected = .error f) :
    f ∈ [.shortPayload, .wrongFunctionCode, .wrongTargetPgn, .noParameters] := by
  by_cases hack : byteNat p 0 = 2
  · rcases Nat.lt_or_ge p.length 7 with hshort | hlen
    · rw [gfParseAck_short hshort] at h
      cases h
      decide
    · exact List.mem_append_right [.shortPayload, .wrongFunctionCode] (gfParseAck_error_of_ack hlen hack h)
  · exact List.mem_append_left [.wrongTargetPgn, .noParameters] (gfParseAck_error_of_not_ack hack h)

end ParseAck

section Cursor

variable {cur : Nat}

theorem readAt_error {n : Nat} (h : readAt p cur n = .error f) : f = .pastEnd := by
  unfold readAt at h
  split_ifs at h
  cases h
  rfl

theorem writeAt_error {n v : Nat} (h : writeAt p cur n v = .error f) : f = .pastEnd := by
  unfold writeAt at h
  split_ifs at h
  cases h
  rfl

theorem readVarString_error (h : readVarString cfg p cur = .error f) : f = .pastEnd := by
  rcases Nat.lt_or_ge cur p.length with hin | hend
  · rw [readVarString_of_lengthByte cfg hin] at h
    cases h
  · rw [readVarString_missing cfg hend] at h
    cases h
    rfl

theorem readRepeated_error {size : Nat} {fields : List SignalDef} (h : readRepeated cfg p cur size fields = .error f) :
    f = .pastEnd := by
  unfold readRepeated at h
  cases hcount : p[cur]? with
  | none => rw [hcount] at h; cases h; rfl
  | some count => rw [hcount] at h; cases h

end Cursor

theorem decodeMessage_fail {m : Message} {rejected : Option DecodedMessage}
    (h : decodeMessage cfg m = .fail f rejected) : f ∈ [.noDecoder, .shortForType] := by
  by_cases hignored : m.pgn ∈ cfg.ignorePgns
  · rw [decodeMessage_of_ignored hignored] at h
    cases h
    decide
  · cases hdec : cfg.decoder m.pgn with
    | none =>
      rw [decodeMessage_of_no_decoder hdec] at h
      cases h
      decide
    | some d =>
      cases d with
      | special decode =>
        rw [decodeMessage_of_special hignored hdec] at h
        cases h
      | generic sch =>
        rw [decodeMessage_of_generic hignored hdec] at h
        split_ifs at h
        cases h
        decide

end Errors

/-! ## What an instruction reports -/

section Reports

variable {ok : Bool} {i : Instr} {s t : State} {f : Failure} {rejected : Option DecodedMessage}

theorem response_of_answerIf {r r' : Response} (h : answerIf ok s r = .next t) (hr : t.response = some r') :
    r = r' := by
  obtain ⟨_, rfl⟩ := answerIf_next h
  exact Option.some.inj hr

/-- A failure that an operation answers is the one its function ended in. -/
theorem error_of_answerIf {α : Type} {result : α → Result} {e : Except Failure α}
    (h : answerIf ok s (respond result e) = .next t) (hr : t.response = some (.fail f rejected)) : e = .error f :=
  (respond_fail (response_of_answerIf h hr)).1

/-- An operation for which R172 lists no failure answers with its results, on whatever state it leaves. -/
theorem exec_of_no_failure_listed (i : Instr) (s : State) (hnone : ∀ f, mayReport i f = false) :
    ∃ u r, exec i s = answerIf i.wf u (.ok r) := by
  cases i with
  | getPropId | parseSimpleAction | parseStateInfo | parseCustomHsb | parseStartPattern | parseOutputChannelPwm
  | parseProprietary | gfParseAck | gfCommand => cases hnone .shortPayload
  | gfBuildCmd => cases hnone .tooLong
  | gfAck => cases hnone .noParameters
  | decodeSignal => cases hnone .bitRangeExceedsPayload
  | decodeMessage => cases hnone .noDecoder
  | readU8 | readU16 | readU32 | readVarString | readRepeated | writeU8 | writeU16 | writeU24 => cases hnone .pastEnd
  | _ => exact ⟨_, _, rfl⟩

theorem not_fail_of_no_failure_listed (hnone : ∀ f, mayReport i f = false) (h : exec i s = .next t) :
    t.response ≠ some (.fail f rejected) := by
  intro hr
  obtain ⟨u, r, he⟩ := exec_of_no_failure_listed i s hnone
  cases response_of_answerIf (he ▸ h) hr

/-- The five parsers report the failures of the gate (R100). -/
theorem mayReport_parserOf {tag : PropTag} {p : Bytes} (h : exec (parserOf p tag) s = .next t)
    (hr : t.response = some (.fail f rejected)) : mayReport (parserOf p tag) f = true := by
  rw [exec_parserOf] at h
  have hgate := List.contains_iff_mem.2 (parseAs_error (error_of_answerIf h hr))
  cases tag <;> exact hgate

end Reports

/-- Settles O13: an operation's failure is one its function can end in, and R172 lists those; an operation for which it
lists none answers with its results. -/
theorem onlyListedFailuresReported : Obligations.OnlyListedFailuresReported := by
  unfold Obligations.OnlyListedFailuresReported
  intro i s t f rejected h hr
  cases i with
  | getPropId p =>
    obtain rfl := getPropId_error (error_of_answerIf h hr)
    rfl
  | parseSimpleAction p => exact mayReport_parserOf (tag := .simpleAction) h hr
  | parseStateInfo p => exact mayReport_parserOf (tag := .stateInfo) h hr
  | parseCustomHsb p => exact mayReport_parserOf (tag := .customHsb) h hr
  | parseStartPattern p => exact mayReport_parserOf (tag := .startPattern) h hr
  | parseOutputChannelPwm p => exact mayReport_parserOf (tag := .outputChannelPwm) h hr
  | parseProprietary p => exact List.contains_iff_mem.2 (parseProprietary_error (error_of_answerIf h hr))
  | gfBuildCmd g prio pairs =>
    exact List.contains_iff_mem.2 (gfBuildCmd_error (error_of_answerIf (ok := true) h hr))
  | gfParseAck p expected => exact List.contains_iff_mem.2 (gfParseAck_error (error_of_answerIf h hr))
  | gfCommand g prio count pairBytes =>
    have hcommand := byteNat_gfFuncCommand_ne_ack Config.current
    exact List.contains_iff_mem.2 (gfParseAck_error_of_not_ack (hcommand _) (error_of_answerIf h hr))
  | gfAck expected g count entry1 =>
    rw [exec_gfAck, exec_gfParseAck rfl] at h
    have hlen : 7 ≤ (2 :: (Codec.write24 g ++ [0, count, entry1])).length := Nat.le_refl 7
    exact List.contains_iff_mem.2 (gfParseAck_error_of_ack hlen rfl (error_of_answerIf (ok := true) h hr))
  | decodeSignal p sd =>
    obtain rfl := decodeSignal_error (error_of_answerIf h hr)
    rfl
  | decodeMessage m => exact List.contains_iff_mem.2 (decodeMessage_fail (response_of_answerIf h hr))
  | readU8 | readU16 | readU32 =>
    obtain rfl := readAt_error (error_of_answerIf h hr)
    rfl
  | readVarString p cur =>
    obtain rfl := readVarString_error (error_of_answerIf h hr)
    rfl
  | readRepeated p cur size fields =>
    obtain rfl := readRepeated_error (error_of_answerIf h hr)
    rfl
  | writeU8 | writeU16 | writeU24 =>
    obtain rfl := writeAt_error (error_of_answerIf h hr)
    rfl
  | _ => exact absurd hr (not_fail_of_no_failure_listed (fun _ => rfl) h)

/-- R172 lists no failure for the operations that write REC or CONF. -/
theorem mayReport_of_writesDetector {i : Instr} (h : writesDetector i = true) (f : Failure) :
    mayReport i f = false := by
  cases i with
  | observe | recomputeConflicts | clear => rfl
  | _ => cases h

/-- Settles O12: the detector's writers report no failure, and any other operation changes the response alone. -/
theorem failureChangesNoState : Obligations.FailureChangesNoState := by
  unfold Obligations.FailureChangesNoState
  intro i s t f rejected h hr
  cases hw : writesDetector i with
  | true => exact absurd hr (not_fail_of_no_failure_listed (mayReport_of_writesDetector hw) h)
  | false =>
    obtain ⟨r, rfl⟩ := onlyDetectorOperationsTouchState i s t h hw
    rw [← hr]

end Sys2Proof.Proofs
